-- ==== Sys2Proof/Word.lean ====
section
/-! DEFINITION. The widths of the spec (00_scope.md R8): bytes of a frame, 32-bit registers, the host's data. -/

namespace Sys2Proof

/-- Every frame byte and every checksum is 8 bits, unsigned (R8). -/
abbrev Byte := BitVec 8

/-- Every register of the window is 32 bits (R8). -/
abbrev Word := BitVec 32

/-- What one host access carries: wide enough for every access width of `Width` (log 31). -/
abbrev HostData := BitVec 64

end Sys2Proof
end

