-- ==== Sys2Proof/Config.lean ====
section
/-! DEFINITION. The plain types the free values speak of, and every value the spec leaves open, as constants with no
body: nothing can be proved of them but what their types say. -/

namespace Sys2Proof

/-- The two kinds of a bus read (00_scope.md R11). -/
inductive XferKind where
  | status
  | data
  deriving DecidableEq, Repr

/-- The six events of the transport port (10_state.md R46, 00_scope.md R11). -/
inductive BusEvent where
  | csAssert
  | csDeassert
  | write (b : Byte)
  | read (k : XferKind) (b : Byte)
  | delay
  deriving DecidableEq, Repr

/-- Who moves next: the host, the engine (00_scope.md R6), or the platform asserting reset (70_reset R250). -/
inductive Turn where
  | host
  | engine
  | reset
  deriving DecidableEq, Repr, Inhabited

/-- The transport's settings that the command layer's guard saves and restores (45_command_layer.md R206). -/
structure BusSettings where
  mode : Nat
  clock : Nat
  bitOrder : Nat
  deriving DecidableEq, Repr, Inhabited

/-- A payload layout (45_command_layer.md decision D41): the bytes of a payload that the source does not name, and where each
named byte goes in among them. -/
structure PayloadLayout where
  others : List Byte
  places : List Nat
  deriving DecidableEq, Repr, Inhabited

namespace Config

/-! ### Free values of the block -/

/-- The agent that moves when the state names none: "in any order" (R6), applied to the tick. Log 2. -/
opaque freeTurn : Nat → Turn

/-- The chip oracle: "a function of the trace so far, the kind k and a free choice" (R47); the free choice is the tick. Log 3. -/
opaque chipByte : List BusEvent → XferKind → Nat → Byte

/-- What a buffer byte that nothing has written reads as (R253), by tick and window offset. Log 4. -/
opaque freeByte : Nat → Nat → Byte

/-- What an unsupported host read returns (R72), by tick. Log 5. -/
opaque freeData : Nat → HostData

/-- The default `attemptsOf` divides by POLL_DELAY_MS: its value, less one, for a delay of 0 ms. Log 10. -/
opaque attemptsNoDelay : BitVec 16 → Fin 65535

/-! ### Open points of the command layer (45_command_layer.md; decisions D41, D42, D43) -/

/-- The transport settings the chip requires (R206; 91_not_in_source.md N11). Log 21. -/
opaque requiredBus : BusSettings

/-- The SAM configuration's mode byte, normal mode (R198). Log 18. -/
opaque samMode : Byte

/-- The SAM configuration's single timeout value, a byte (R198). Log 18. -/
opaque samTimeout : Byte

/-- How SAMConfig lays out mode and timeout (R198). Log 18. -/
opaque samLayout : List Byte → PayloadLayout

/-- The RF configuration payload bytes before the retry count (R199). Log 18. -/
opaque rfBefore : List Byte

/-- The RF configuration payload bytes after the retry count (R199). Log 18. -/
opaque rfAfter : List Byte

/-- How readPassiveTargetID lays out max-targets and the baud-rate selector (R200). Log 18. -/
opaque passiveLayout : List Byte → PayloadLayout

/-- How authenticateBlock lays out slot, key command, block, key and UID (R202). Log 18. -/
opaque authLayout : List Byte → PayloadLayout

/-- What authenticateBlock sends of a UID of more than four bytes (R202; 93_implementation_defined.md U19). Log 18. -/
opaque authLongUid : List Byte → List Byte

/-- How readMemoryBlock lays out slot, card command and block (R203). Log 18. -/
opaque readLayout : List Byte → PayloadLayout

/-- How writeMemoryBlock lays out slot, card command, block and the 16 bytes (R204). Log 18. -/
opaque writeLayout : List Byte → PayloadLayout

/-- The payload of the general-status command, which no operation of the source uses (R193). Log 16. -/
opaque generalStatusPayload : List Byte

/-- What a general-status response is read as (R193). Log 16. -/
opaque generalStatusResult : List Byte → Word

/-- FW_PACK: how the response bytes pack into the version word (R197). Log 19. -/
opaque fwPack : List Byte → Word

/-- The place of the status byte in a data-exchange response (R196). Log 19. -/
opaque statusPos : Nat

/-- The success value of authenticateBlock, readMemoryBlock and writeMemoryBlock, less one: it is not 0 (R202). Log 19. -/
opaque successValue : List Byte → Fin 4294967295

/-- The 16 bytes of a MemoryBlock in a response (R203). Log 19. -/
opaque memoryBlock : List Byte → Fin 16 → Byte

/-- The place of the target count in a readPassiveTargetID response (R200). Log 19. -/
opaque targetCountPos : Nat

/-- The place of the UID length in a readPassiveTargetID response (R200). Log 19. -/
opaque uidLengthPos : Nat

/-- The place of the first UID byte in a readPassiveTargetID response (R200). Log 19. -/
opaque uidPos : Nat

/-- UID_FOLD: which four bytes of a UID longer than four form the CardID, by the UID's length (R201). Log 19. -/
opaque uidFold : Nat → Fin 4 → Nat

/-- The CardID of a reported UID of length 0, which R201 does not state. Log 19. -/
opaque emptyUidCard : List Byte → Word

/-- A byte at a place past the end of the decoded payload. Log 30. -/
opaque missingByte : List Byte → Nat → Byte

end Config

end Sys2Proof
end

