-- ==== Sys2Proof/Syntax.lean ====
section
/-! DEFINITION. The instructions: one constructor per row of spec/opcode_table.json. -/

namespace Sys2Proof

/-- The seven operation words (30_encoding.md R90, R92; DECODE has a row for each value of LOOP) and the six command
codes host software places in a frame (45_command_layer.md R193). `cmd` and `plen` are bits 15:8 and 23:16 of the word;
an operation that does not use a field still carries it, because OP stores every bit of an accepted word (10_state.md
R22, log 28). -/
inductive Instr where
  /-- `fce.encode CMD, PLEN` (40_codec.md R122). -/
  | fceEncode (cmd plen : Byte)
  /-- `fce.decode`, both fields don't-care (40_codec.md R125). -/
  | fceDecode (cmd plen : Byte)
  /-- `fce.decode.loop`, both fields don't-care (40_codec.md R125). -/
  | fceDecodeLoop (cmd plen : Byte)
  /-- `fce.checkack`, both fields don't-care (40_codec.md R132). -/
  | fceCheckAck (cmd plen : Byte)
  /-- `fce.sendack CMD, PLEN` (41_handshake.md R165). -/
  | fceSendAck (cmd plen : Byte)
  /-- `fce.readresp CMD`, PLEN don't-care (41_handshake.md R166). -/
  | fceReadResp (cmd plen : Byte)
  /-- `fce.exchange CMD, PLEN` (41_handshake.md R167). -/
  | fceExchange (cmd plen : Byte)
  /-- Command code 0x02, firmware version (R193, R197). -/
  | cmdFirmwareVersion
  /-- Command code 0x04, general status (R193). -/
  | cmdGeneralStatus
  /-- Command code 0x14, SAM configuration (R193, R198). -/
  | cmdSamConfiguration
  /-- Command code 0x32, RF configuration (R193, R199). -/
  | cmdRfConfiguration
  /-- Command code 0x4A, in-list passive target (R193, R200). -/
  | cmdInListPassiveTarget
  /-- Command code 0x40, data exchange (R193, R202 to R204). -/
  | cmdDataExchange
  deriving DecidableEq, Repr

/-- The two encodings of the table: a 32-bit operation word (R90), an 8-bit command code (R106). -/
inductive Encoded where
  | opWord (w : Word)
  | cmdByte (c : Byte)
  deriving DecidableEq, Repr

end Sys2Proof
end

