-- ==== Sys2Proof/WellFormed.lean ====
section
/-! DEFINITION. The size contract of an instruction (log 32). -/

namespace Sys2Proof

/-- The largest payload any frame can carry: LEN = PLEN + 2 is one byte (00_scope.md R7, 30_encoding.md R98). -/
def largestPayload : Byte := 253#8

/-- An instruction keeps the caller's size contract when the payload it announces fits a frame: PLEN 254 or 255 "is
always INVALID_ARG whatever `MAX_PLEN` is" (40_codec.md R122). The machine gives a meaning to the others too. -/
def Instr.wellFormed : Instr → Bool
  | .fceEncode _ plen => decide (plen ≤ largestPayload)
  | .fceSendAck _ plen => decide (plen ≤ largestPayload)
  | .fceExchange _ plen => decide (plen ≤ largestPayload)
  | .fceDecode _ _ => true
  | .fceDecodeLoop _ _ => true
  | .fceCheckAck _ _ => true
  | .fceReadResp _ _ => true
  | .cmdFirmwareVersion => true
  | .cmdGeneralStatus => true
  | .cmdSamConfiguration => true
  | .cmdRfConfiguration => true
  | .cmdInListPassiveTarget => true
  | .cmdDataExchange => true

end Sys2Proof
end

