-- ==== Sys2Proof/Decode.lean ====
section
/-! DEFINITION. The decoder of operation words and command codes, total and rejecting by name, and the encoder, both
written from 30_encoding.md R90 to R92, R108 and 45_command_layer.md R193. -/

namespace Sys2Proof

/-- Why a word is no instruction: the illegal words of R108, in the order R228 checks them, and a command code the
source does not list. -/
inductive DecodeError where
  | reservedBits
  | reservedOpc
  | loopMisuse
  | unlistedCommand
  deriving DecidableEq, Repr

inductive Decoded where
  | ok (i : Instr)
  | reject (e : DecodeError)
  deriving DecidableEq, Repr

/-! ### The fields of an operation word (R90) -/

/-- OPC, bits 3:0. -/
def opcField (w : Word) : BitVec 4 := w.extractLsb' 0 4
/-- LOOP, bit 4. -/
def loopField (w : Word) : Bool := w.getLsbD 4
/-- Reserved, bits 7:5. -/
def reservedLow (w : Word) : BitVec 3 := w.extractLsb' 5 3
/-- CMD, bits 15:8. -/
def cmdField (w : Word) : Byte := w.extractLsb' 8 8
/-- PLEN, bits 23:16. -/
def plenField (w : Word) : Byte := w.extractLsb' 16 8
/-- Reserved, bits 31:24. -/
def reservedHigh (w : Word) : Byte := w.extractLsb' 24 8

/-! ### Decoding -/

/-- The operation of a word whose reserved bits are 0 (R92): the OPC first, then LOOP (R228). -/
def decodeOpc (opc : BitVec 4) (loop : Bool) (cmd plen : Byte) : Decoded :=
  match opc.toNat, loop with
  | 1, false => .ok (.fceEncode cmd plen)
  | 2, false => .ok (.fceDecode cmd plen)
  | 2, true => .ok (.fceDecodeLoop cmd plen)
  | 3, false => .ok (.fceCheckAck cmd plen)
  | 4, false => .ok (.fceSendAck cmd plen)
  | 5, false => .ok (.fceReadResp cmd plen)
  | 6, false => .ok (.fceExchange cmd plen)
  | 1, true => .reject .loopMisuse
  | 3, true => .reject .loopMisuse
  | 4, true => .reject .loopMisuse
  | 5, true => .reject .loopMisuse
  | 6, true => .reject .loopMisuse
  | _, _ => .reject .reservedOpc

/-- The dispatch checks of R91: reserved bits, then OPC, then LOOP. -/
def decodeOpWord (w : Word) : Decoded :=
  if reservedLow w ≠ 0 ∨ reservedHigh w ≠ 0 then .reject .reservedBits
  else decodeOpc (opcField w) (loopField w) (cmdField w) (plenField w)

/-- The command codes of R193. -/
def decodeCommand (c : Byte) : Decoded :=
  if c = 0x02#8 then .ok .cmdFirmwareVersion
  else if c = 0x04#8 then .ok .cmdGeneralStatus
  else if c = 0x14#8 then .ok .cmdSamConfiguration
  else if c = 0x32#8 then .ok .cmdRfConfiguration
  else if c = 0x4A#8 then .ok .cmdInListPassiveTarget
  else if c = 0x40#8 then .ok .cmdDataExchange
  else .reject .unlistedCommand

def decode : Encoded → Decoded
  | .opWord w => decodeOpWord w
  | .cmdByte c => decodeCommand c

/-! ### Encoding -/

/-- The word `00000000 PPPPPPPP CCCCCCCC 000LOOOO` of R90. -/
def opWordOf (opc : BitVec 4) (loop : Bool) (cmd plen : Byte) : Word :=
  0#8 ++ plen ++ cmd ++ (0#3 ++ BitVec.ofBool loop ++ opc)

/-- The words of an instruction (R90, R92, R110; R193). -/
def encode : Instr → Encoded
  | .fceEncode cmd plen => .opWord (opWordOf 1#4 false cmd plen)
  | .fceDecode cmd plen => .opWord (opWordOf 2#4 false cmd plen)
  | .fceDecodeLoop cmd plen => .opWord (opWordOf 2#4 true cmd plen)
  | .fceCheckAck cmd plen => .opWord (opWordOf 3#4 false cmd plen)
  | .fceSendAck cmd plen => .opWord (opWordOf 4#4 false cmd plen)
  | .fceReadResp cmd plen => .opWord (opWordOf 5#4 false cmd plen)
  | .fceExchange cmd plen => .opWord (opWordOf 6#4 false cmd plen)
  | .cmdFirmwareVersion => .cmdByte 0x02#8
  | .cmdGeneralStatus => .cmdByte 0x04#8
  | .cmdSamConfiguration => .cmdByte 0x14#8
  | .cmdRfConfiguration => .cmdByte 0x32#8
  | .cmdInListPassiveTarget => .cmdByte 0x4A#8
  | .cmdDataExchange => .cmdByte 0x40#8

/-! ### The table's own numbering -/

/-- The encoding whose `nbits` bits are `w`: a row of 8 bits is a command code, a row of 32 an operation word, and the
table numbers both as R9 does. -/
def encodedOfTable (nbits w : Nat) : Encoded :=
  if nbits ≤ 8 then .cmdByte (BitVec.ofNat 8 w) else .opWord (BitVec.ofNat 32 w)

/-- What the decoder reads from a row's bits. -/
def decodeTableWord (nbits w : Nat) : Option Instr :=
  match decode (encodedOfTable nbits w) with
  | .ok i => some i
  | .reject _ => none

/-- How many bits an encoding has. -/
def Encoded.nbits : Encoded → Nat
  | .opWord _ => 32
  | .cmdByte _ => 8

/-- An encoding as one number (R9). -/
def Encoded.toNat : Encoded → Nat
  | .opWord w => w.toNat
  | .cmdByte c => c.toNat

end Sys2Proof
end

