-- ==== Sys2Proof/Machine/State.lean ====
section
/-! DEFINITION. Everything the spec gives the machine, as plain data (10_state.md; 45_command_layer.md for the host's
side), the reasons a step can stop, and the state after power-on reset (70_reset_and_hazards.md R252). -/

namespace Sys2Proof.Machine

/-! ### The block's names -/

/-- STATUS.ERR (10_state.md R27, 60_exceptions.md R220). Code 7 is never written and is no constructor (log 33). -/
inductive Err where
  | noError
  | framing
  | checksum
  | ackMismatch
  | timeout
  | invalidArg
  | illegalOp
  deriving DecidableEq, Repr

/-- STATUS.FSM (10_state.md R29). Codes 10 to 15 are never held and are no constructors (log 33). -/
inductive Fsm where
  | idle
  | start
  | sending
  | awaitReady
  | pollWait
  | verifyAck
  | readHdr
  | readBody
  | success
  | failed
  deriving DecidableEq, Repr

/-- The hidden OPK: which bus operation is in progress (10_state.md R43). -/
inductive OpKind where
  | none
  | sendCheckAck
  | readResponse
  | exchange
  deriving DecidableEq, Repr

/-- XFER_PREFIX (00_scope.md R7, D21). -/
inductive XferPrefix where
  | plain
  | pn532Spi
  deriving DecidableEq, Repr

/-- The fields of STATUS (10_state.md R23). -/
structure Status where
  busy : Bool
  done : Bool
  ok : Bool
  err : Err
  cs : Bool
  rej : Bool
  fsm : Fsm
  respCmd : Byte
  respLen : Byte
  deriving DecidableEq, Repr

/-- The instance's parameters (00_scope.md R7): constant over every step and over reset (10_state.md R37). `attempts`
lists where the instance's `attemptsOf` differs from the default formula, each entry one less than its bound, so that
every total function with results 1 to 65535 is some list (log 9). -/
structure Param where
  maxPlen : Fin 254
  pollDelayMs : BitVec 16
  repoll : Bool
  xferPrefix : XferPrefix
  attempts : List (BitVec 16 × Fin 65535)
  csLine : Nat
  csActiveHigh : Bool
  fceBase : Nat
  deriving DecidableEq, Repr

/-- The written bytes of the four buffers, by window offset, offsets strictly rising (20_memory.md R73). An offset that is
not listed has no value: a read of it is a free draw (70_reset R253, log 4). -/
abbrev Memory := List Host.Cell

/-! ### The host's names -/

/-- The width of a host access (20_memory.md R71, R72). -/
inductive Width where
  | w8
  | w16
  | w32
  | w64
  deriving DecidableEq, Repr

/-- One access of the host, at an address of its own address space (00_scope.md R11, 20_memory.md R70). -/
inductive Access where
  | read (w : Width) (addr : Nat)
  | write (w : Width) (addr : Nat) (v : HostData)
  deriving DecidableEq, Repr

/-- The key-type selector (45_command_layer.md R202). -/
inductive KeyType where
  | keyA
  | keyB
  deriving DecidableEq, Repr

/-- Which of the three operations a data-exchange command serves (R193). -/
inductive DataExchange where
  | authenticateBlock
  | readMemoryBlock
  | writeMemoryBlock
  deriving DecidableEq, Repr

/-- The arguments of the driver's public operations (R194, R195), set before a command code is issued (log 15). `key` and
`data` are lists, and `outSize` is the size of the `out` buffer, because buffers of a wrong size are rejected (R205).
`timeoutMs` is the timeout of every operation that has no timeout argument of its own (log 6). `raw` is the payload of a plain
`sendCommandCheckAck`. -/
structure Args where
  maxRetries : Byte
  baudRate : Byte
  dataExchange : DataExchange
  slot : Byte
  uid : List Byte
  block : Byte
  keyType : KeyType
  key : List Byte
  data : List Byte
  outSize : Nat
  raw : List Byte
  timeoutMs : BitVec 16
  deriving DecidableEq, Repr

/-- What a command-layer call is for (R193, R194). -/
inductive CallKind where
  | getFirmwareVersion
  | generalStatus
  | samConfig
  | rfConfiguration
  | readPassiveTargetID
  | authenticateBlock
  | readMemoryBlock
  | writeMemoryBlock
  | sendCommandCheckAck
  deriving DecidableEq, Repr

/-- Where a command-layer call is: the flow of R190 inside the guard of R206, in the order of 70_reset R256. -/
inductive Phase where
  | saveBus
  | forceBus
  | writeTimeout
  | writePayload (i : Nat)
  | writeSend
  | waitSend
  | writeRead
  | waitRead
  | fetch (i : Nat) (n : Nat)
  | restoreBus (ok : Bool)
  deriving DecidableEq, Repr

/-- A command-layer call in progress: what was asked, the transport settings it saved, the response bytes it has read. -/
structure Call where
  kind : CallKind
  cmd : Byte
  payload : List Byte
  timeoutMs : BitVec 16
  phase : Phase
  saved : BusSettings
  got : List Byte
  deriving DecidableEq, Repr

/-- What a call returned (R194): a 32-bit value, a boolean, or nothing (RFConfiguration). -/
inductive Result where
  | word (v : Word)
  | flag (b : Bool)
  | nothing
  deriving DecidableEq, Repr

/-- One thing the host does: an access (30_encoding.md R109), the `wait` loop (R111), a command code issued through the
command layer (45_command_layer.md R190), that layer's public `sendCommandCheckAck` with its array and timeout (R195,
30_encoding.md R95; the source's default timeout is 1000), setting that layer's arguments, or a change of the transport's
settings by the driver's public surface (R195, R206). -/
inductive HostOp where
  | access (a : Access)
  | wait
  | command (c : Byte)
  | sendCommandCheckAck (cmd : List Byte) (timeoutMs : BitVec 16)
  | setArgs (a : Args)
  | setBus (b : BusSettings)
  | backupBus
  | restoreBus
  deriving DecidableEq, Repr

/-- The host agent: what it has still to do, what its reads returned (oldest first), and the command layer's state. -/
structure Client where
  program : List HostOp
  reads : List HostData
  args : Args
  call : Option Call
  result : Option Result
  block : Option (List Byte)
  backup : Option BusSettings
  deriving DecidableEq, Repr

/-! ### The state -/

/-- The whole machine. From `op` to `trace` it is the block (10_state.md R20 to R46); `client` and `transport` are the
host's side (45_command_layer.md); `turns`, `chip` and `tick` are the model's own (logs 2, 3, 7). -/
structure State where
  op : Word
  status : Status
  tmo : BitVec 16
  rxn : BitVec 9
  txn : BitVec 9
  att : BitVec 16
  limit : BitVec 16
  statb : Byte
  param : Param
  mem : Memory
  opk : OpKind
  cmdl : Byte
  ph : Bool
  idx : BitVec 9
  trace : List BusEvent
  client : Client
  transport : BusSettings
  turns : List Turn
  chip : List Byte
  tick : Nat
  deriving DecidableEq, Repr

/-! ### Why a step can stop -/

/-- A stop of the model. Neither is a behaviour of the block, whose errors are all next states (60_exceptions.md). -/
inductive Fault where
  /-- A host access at an address outside the block's window, which is not the block's to answer (20_memory.md R70, log 11);
  raised by `hostAccess`. Safe. -/
  | outsideWindow
  /-- An engine step whose IDX lies outside the buffer it names, or with BUSY set in IDLE, SUCCESS or FAILED: states no run
  reaches (93_implementation_defined.md U12, log 12); raised by the engine transitions. Safe. -/
  | engineState
  deriving DecidableEq, Repr

/-- An instruction given no meaning. -/
inductive Refusal where
  /-- An instruction not modelled yet; raised by exec's arms alone. Safe. -/
  | notModelled (mnemonic : String)
  /-- A command-layer call while another one runs: "Two host threads driving the block at once is outside the model"
  (20_memory.md R86, U20 "refuse", log 20); raised by `openCall`. Safe. -/
  | concurrentCall
  deriving DecidableEq, Repr

/-! ### Reset -/

/-- STATUS after reset (R252). -/
def Status.reset : Status :=
  { busy := false, done := false, ok := false, err := .noError, cs := false, rej := false, fsm := .idle,
    respCmd := 0, respLen := 0 }

/-- The default instance (00_scope.md R7); POLL_DELAY_MS is the spec's suggested default, PRESUMED, and the last three are
DESIGN CHOICES no rule depends on (log 8). -/
def Param.default : Param :=
  { maxPlen := 253, pollDelayMs := 10, repoll := false, xferPrefix := .plain, attempts := [], csLine := 0,
    csActiveHigh := false, fceBase := 0 }

/-- The transport's settings before anything sets them (log 21). -/
def BusSettings.reset : BusSettings := { mode := 0, clock := 0, bitOrder := 0 }

/-- The command layer's arguments before anything sets them (log 22); the timeout is the default of R195. -/
def Args.reset : Args :=
  { maxRetries := 0, baudRate := 0, dataExchange := .authenticateBlock, slot := 0, uid := [], block := 0,
    keyType := .keyA, key := List.replicate 6 0, data := List.replicate 16 0, outSize := 16, raw := [], timeoutMs := 1000 }

/-- A host with nothing to do that has read nothing (log 1). -/
def Client.reset : Client :=
  { program := [], reads := [], args := Args.reset, call := none, result := none, block := none, backup := none }

/-- An instance right after power-on reset: R252 for the block, an empty trace (10_state.md R46). -/
def State.resetOf (p : Param) : State :=
  { op := 0, status := Status.reset, tmo := 1000, rxn := 0, txn := 0, att := 0, limit := 0, statb := 0, param := p,
    mem := [], opk := .none, cmdl := 0, ph := false, idx := 0, trace := [], client := Client.reset,
    transport := BusSettings.reset, turns := [], chip := [], tick := 0 }

/-- The default instance right after power-on reset. -/
def State.reset : State := State.resetOf Param.default

end Sys2Proof.Machine
end

