-- ==== Sys2Proof/Machine/Ops.lean ====
section
/-! DEFINITION. The named operations over the state that every meaning is built from: the buffers, the transport port,
acceptance, the one way an operation ends, rejection, reset. -/

namespace Sys2Proof.Machine

/-- Continue after a step that may stop. -/
def andThen (o : Host.Outcome State Fault Refusal) (f : State → State) : Host.Outcome State Fault Refusal :=
  match o with
  | .next s => .next (f s)
  | .fault r => .fault r
  | .refused r => .refused r

/-! ### The window's layout (10_state.md R21) -/

def pbufBase : Nat := 0x100
def txfBase : Nat := 0x200
def rxfBase : Nat := 0x400
def ackrBase : Nat := 0x600

def pbufSize : Nat := 253
def txfSize : Nat := 262
def rxfSize : Nat := 262
def ackrSize : Nat := 6

/-- The offsets that hold buffer bytes (R38 to R41). -/
def isBuffer (off : Nat) : Bool :=
  decide (pbufBase ≤ off ∧ off < pbufBase + pbufSize) || decide (txfBase ≤ off ∧ off < txfBase + txfSize) ||
    decide (rxfBase ≤ off ∧ off < rxfBase + rxfSize) || decide (ackrBase ≤ off ∧ off < ackrBase + ackrSize)

/-! ### Buffer bytes -/

/-- The byte written at an offset, if any. -/
def Memory.get (off : Nat) : Memory → Option Byte
  | [] => none
  | c :: rest => if c.1 = off then some c.2 else Memory.get off rest

/-- Write one byte, keeping the offsets rising. -/
def Memory.set (off : Nat) (b : Byte) : Memory → Memory
  | [] => [(off, b)]
  | c :: rest =>
    if off < c.1 then (off, b) :: c :: rest
    else if off = c.1 then (off, b) :: rest
    else c :: Memory.set off b rest

/-- Write consecutive bytes from an offset up. -/
def Memory.setRange (off : Nat) : List Byte → Memory → Memory
  | [], m => m
  | b :: bs, m => Memory.setRange (off + 1) bs (Memory.set off b m)

/-- The canonical form: offsets strictly rising, each of them a buffer's. An unlisted offset has no value, so no entry can
equal what it reads as. -/
abbrev Memory.wf (m : Memory) : Prop :=
  m.Pairwise (fun a b => a.1 < b.1) ∧ ∀ c ∈ m, isBuffer c.1 = true

/-- A buffer byte as read in this step: the byte written there, else a free draw (70_reset R253, log 4). -/
def State.readByte (s : State) (off : Nat) : Byte :=
  match Memory.get off s.mem with
  | some b => b
  | none => Config.freeByte s.tick off

/-- `n` consecutive buffer bytes, each read once (log 4). -/
def State.readBytes (s : State) (off n : Nat) : List Byte :=
  (List.range n).map (fun i => s.readByte (off + i))

def State.writeByte (s : State) (off : Nat) (b : Byte) : State := { s with mem := Memory.set off b s.mem }

/-! ### The transport port (00_scope.md R11, 10_state.md R46) -/

/-- Append an event to the bus event trace. -/
def State.emit (s : State) (e : BusEvent) : State := { s with trace := s.trace ++ [e] }

/-- `CsAssert()` with its flag (10_state.md R28). -/
def State.csAssert (s : State) : State :=
  { s with trace := s.trace ++ [.csAssert], status := { s.status with cs := true } }

/-- `if STATUS.CS = 1 then CsDeassert(); STATUS.CS <- 0` (60_exceptions.md R226). -/
def State.csRelease (s : State) : State :=
  if s.status.cs then { s with trace := s.trace ++ [.csDeassert], status := { s.status with cs := false } } else s

/-- The byte the chip answers to a read of kind `k`: the next answer in `chip`, else a free value of the trace, the kind and
the tick (10_state.md R47, log 3). -/
def State.chipAnswer (s : State) (k : XferKind) : Byte :=
  match s.chip with
  | b :: _ => b
  | [] => Config.chipByte s.trace k s.tick

/-- `BusRead(k)`: the event with the byte the chip answered, which is then used up. -/
def State.busRead (s : State) (k : XferKind) : State :=
  { s with trace := s.trace ++ [.read k (s.chipAnswer k)], chip := s.chip.tail }

/-! ### Beginning and ending an operation -/

/-- What acceptance of a word does before any check (30_encoding.md R91), which is also the return from a failure
(60_exceptions.md R229). -/
def State.accept (s : State) (v : Word) : State :=
  { s with
    op := v
    att := 0
    status := { s.status with done := false, ok := false, err := .noError, rej := false, respCmd := 0, respLen := 0 } }

/-- `Finish(ok, e)`, "the only way an operation ends" (60_exceptions.md R226); with `ok = false` it is the entry of an
error, the block's one exception entry. -/
def State.finish (s : State) (ok : Bool) (e : Err) : State :=
  { s.csRelease with
    opk := .none
    status := { s.csRelease.status with
      ok := ok
      err := if ok then .noError else e
      fsm := if ok then .success else .failed
      busy := false
      done := true } }

/-- `Finish(1, NONE)`. -/
def State.succeed (s : State) : State := s.finish true .noError

/-- `Finish(0, e)`. -/
def State.fail (s : State) (e : Err) : State := s.finish false e

/-- A decoded frame's results (10_state.md R31). -/
def State.setResponse (s : State) (cmd plen : Byte) : State :=
  { s with status := { s.status with respCmd := cmd, respLen := plen } }

/-- The busy rule of 20_memory.md R75: a write made while BUSY changes nothing but REJ; else it is accepted. -/
def State.guardBusy (s : State) (f : State → State) : State :=
  if s.status.busy then { s with status := { s.status with rej := true } } else f s

/-- A write of the word `v` to OP whose operation is `perform` (R75, R91). -/
def acceptOp (v : Word) (perform : State → State) (s : State) : Host.Outcome State Fault Refusal :=
  .next (s.guardBusy (fun s => perform (s.accept v)))

/-- A write to OP of a word that is no operation: ILLEGAL_OP and nothing else (60_exceptions.md R221). -/
def illegalOp (v : Word) (s : State) : Host.Outcome State Fault Refusal :=
  acceptOp v (fun s => s.fail .illegalOp) s

/-! ### Reset -/

/-- The reset input (70_reset R251, R252): the operation in progress is abandoned, chip-select released, every register and
hidden field at its reset value, every buffer byte unspecified again, the parameters kept. The host, the transport and
the chip are not the block's and keep their state (log 14). -/
def State.resetBlock (s : State) : State :=
  { State.resetOf s.param with
    trace := s.csRelease.trace
    client := s.client
    transport := s.transport
    turns := s.turns
    chip := s.chip
    tick := s.tick }

end Sys2Proof.Machine
end

