-- ==== Sys2Proof/Machine/Operands.lean ====
section
/-! DEFINITION. Every operand form: the payload of a sending operation, the raw bytes of a decode, the timeout, the
register window's offsets. The fields CMD, PLEN and LOOP of the word are Decode.lean's. -/

namespace Sys2Proof.Machine

/-! ### Operands of the operations (30_encoding.md R93) -/

/-- `PBUF[0 .. PLEN−1]`, read at acceptance (20_memory.md R81). -/
def State.payload (s : State) (plen : Byte) : List Byte := s.readBytes pbufBase plen.toNat

/-- `RXF[0 .. RXN−1]` (40_codec.md R125, R132; 41_handshake.md R163). -/
def State.received (s : State) : List Byte := s.readBytes rxfBase s.rxn.toNat

/-- `ACKR[0..5]` (41_handshake.md R159). -/
def State.ackBytes (s : State) : List Byte := s.readBytes ackrBase 6

/-- `PLEN > MAX_PLEN` (40_codec.md R122). -/
def State.tooLong (s : State) (plen : Byte) : Bool := decide (s.param.maxPlen.val < plen.toNat)

/-- `RXN > 262` (40_codec.md R125, R132). -/
def State.rxnTooLarge (s : State) : Bool := decide (rxfSize < s.rxn.toNat)

/-! ### The poll bound (00_scope.md R7, 41_handshake.md R152) -/

/-- `max(1, min(65535, ceil(TMO / POLL_DELAY_MS)))`; a delay of 0 ms leaves the quotient open (log 10). -/
def Param.defaultAttempts (p : Param) (tmo : BitVec 16) : Nat :=
  if p.pollDelayMs = 0 then (Config.attemptsNoDelay tmo).val + 1
  else max 1 (min 65535 ((tmo.toNat + p.pollDelayMs.toNat - 1) / p.pollDelayMs.toNat))

/-- `attemptsOf`: the instance's total function with results 1 to 65535 (log 9). -/
def Param.attemptsOf (p : Param) (tmo : BitVec 16) : BitVec 16 :=
  match p.attempts.lookup tmo with
  | some n => BitVec.ofNat 16 (n.val + 1)
  | none => BitVec.ofNat 16 (p.defaultAttempts tmo)

/-! ### Operands of the host's accesses (10_state.md R21, 20_memory.md R71) -/

/-- The eight registers (R21). -/
inductive Reg where
  | op
  | status
  | tmo
  | rxn
  | txn
  | poll
  | statb
  | param
  deriving DecidableEq, Repr

/-- What a window offset is: a register's own offset, another byte of a register, a buffer byte, or reserved. -/
inductive Region where
  | reg (r : Reg)
  | insideReg
  | pbuf
  | txf
  | rxf
  | ackr
  | reserved
  deriving DecidableEq, Repr

/-- The offset of a register (R21). -/
def Reg.offset : Reg → Nat
  | .op => 0x000
  | .status => 0x004
  | .tmo => 0x008
  | .rxn => 0x00C
  | .txn => 0x010
  | .poll => 0x014
  | .statb => 0x018
  | .param => 0x01C

/-- The register at an offset, if a register begins there. -/
def regAt (off : Nat) : Option Reg :=
  [Reg.op, .status, .tmo, .rxn, .txn, .poll, .statb, .param].find? (fun r => decide (r.offset = off))

/-- The map of R21. -/
def regionOf (off : Nat) : Region :=
  if off < 0x020 then
    match regAt off with
    | some r => .reg r
    | none => .insideReg
  else if pbufBase ≤ off ∧ off < pbufBase + pbufSize then .pbuf
  else if txfBase ≤ off ∧ off < txfBase + txfSize then .txf
  else if rxfBase ≤ off ∧ off < rxfBase + rxfSize then .rxf
  else if ackrBase ≤ off ∧ off < ackrBase + ackrSize then .ackr
  else .reserved

/-- How many bytes an access takes. -/
def Width.bytes : Width → Nat
  | .w8 => 1
  | .w16 => 2
  | .w32 => 4
  | .w64 => 8

/-- The window offset of a host address, if it lies in the window (R21). -/
def Param.offsetOf (p : Param) (addr : Nat) : Option Nat :=
  if p.fceBase ≤ addr ∧ addr < p.fceBase + 4096 then some (addr - p.fceBase) else none

/-- A data value cut to a width. -/
def Width.cut (w : Width) (v : HostData) : HostData := (v.setWidth (8 * w.bytes)).setWidth 64

end Sys2Proof.Machine
end

