-- ==== Sys2Proof/Machine/Flags.lean ====
section
/-! DEFINITION. The flags and registers as words: every field at the bits 10_state.md gives it, and the tests the engine
makes of a byte. -/

namespace Sys2Proof.Machine

/-- The codes of 60_exceptions.md R220. -/
def Err.code : Err → BitVec 3
  | .noError => 0
  | .framing => 1
  | .checksum => 2
  | .ackMismatch => 3
  | .timeout => 4
  | .invalidArg => 5
  | .illegalOp => 6

/-- The codes of 10_state.md R29. -/
def Fsm.code : Fsm → BitVec 4
  | .idle => 0
  | .start => 1
  | .sending => 2
  | .awaitReady => 3
  | .pollWait => 4
  | .verifyAck => 5
  | .readHdr => 6
  | .readBody => 7
  | .success => 8
  | .failed => 9

/-- The states in which an operation is in progress (10_state.md R24). -/
def Fsm.running : Fsm → Bool
  | .idle => false
  | .start => true
  | .sending => true
  | .awaitReady => true
  | .pollWait => true
  | .verifyAck => true
  | .readHdr => true
  | .readBody => true
  | .success => false
  | .failed => false

/-- STATUS as the host reads it (10_state.md R23). -/
def Status.word (st : Status) : Word :=
  st.respLen ++ st.respCmd ++ 0#4 ++ st.fsm.code ++ BitVec.ofBool st.rej ++ BitVec.ofBool st.cs ++ st.err.code ++
    BitVec.ofBool st.ok ++ BitVec.ofBool st.done ++ BitVec.ofBool st.busy

def XferPrefix.bit : XferPrefix → Bool
  | .plain => false
  | .pn532Spi => true

/-- PARAM as the host reads it (10_state.md R37). -/
def Param.word (p : Param) : Word :=
  p.pollDelayMs ++ 0#6 ++ BitVec.ofBool p.xferPrefix.bit ++ BitVec.ofBool p.repoll ++ BitVec.ofNat 8 p.maxPlen.val

/-- A register as the host reads it; reserved bits read 0 but for OP's, which are stored (R22, R32 to R37, R42). -/
def State.regWord (s : State) : Reg → Word
  | .op => s.op
  | .status => s.status.word
  | .tmo => s.tmo.setWidth 32
  | .rxn => s.rxn.setWidth 32
  | .txn => s.txn.setWidth 32
  | .poll => s.limit ++ s.att
  | .statb => s.statb.setWidth 32
  | .param => s.param.word

/-- "A status byte `s` means response ready exactly when `s[0] = 1`" (41_handshake.md R155). -/
def isReady (b : Byte) : Bool := b.getLsbD 0

/-- The fields of a STATUS word that host software tests (30_encoding.md R95, R111). -/
def statusBusy (w : Word) : Bool := w.getLsbD 0
def statusDone (w : Word) : Bool := w.getLsbD 1
def statusOk (w : Word) : Bool := w.getLsbD 2
def statusRespLen (w : Word) : Byte := w.extractLsb' 24 8

/-- The level of the chip-select line the instance drives (00_scope.md R7, 10_state.md R28). -/
def State.csLevel (s : State) : Bool := s.status.cs == s.param.csActiveHigh

end Sys2Proof.Machine
end

