-- ==== Sys2Proof/Machine/Codec.lean ====
section
/-! DEFINITION. The Frame Codec (40_codec.md): the checksum generator, EncodeFrame, DecodeFrame, AckMatch, and the
operations ENCODE, DECODE and CHECK_ACK built from them. -/

namespace Sys2Proof.Machine

/-! ### Constants (10_state.md R44) -/

def preamble : Byte := 0x00#8
def start1 : Byte := 0x00#8
def start2 : Byte := 0xFF#8
def postamble : Byte := 0x00#8
/-- Host-to-chip (30_encoding.md R100). -/
def tfiToChip : Byte := 0xD4#8
/-- Chip-to-host (30_encoding.md R100, 90_conflicts.md C1). -/
def tfiToHost : Byte := 0xD5#8
def ackFrame : List Byte := [0x00#8, 0x00#8, 0xFF#8, 0x00#8, 0xFF#8, 0x00#8]

/-! ### The checksum generator (40_codec.md R120) -/

/-- The sum of the bytes modulo 256 (00_scope.md R10). -/
def sum8 : List Byte → Byte
  | [] => 0
  | b :: bs => b + sum8 bs

/-- `(256 − v) mod 256` (00_scope.md R10). -/
def neg8 (v : Byte) : Byte := BitVec.ofNat 8 (256 - v.toNat)

def lcs (len : Byte) : Byte := neg8 len

def dcs (s : List Byte) : Byte := neg8 (sum8 s)

/-! ### EncodeFrame (R121) -/

/-- The LEN of a frame with `n` payload bytes (30_encoding.md R98). -/
def lenOf (n : Nat) : Byte := BitVec.ofNat 8 (n + 2)

/-- The frame of command byte `c` and payload `d`, always host-to-chip. -/
def encodeFrame (c : Byte) (d : List Byte) : List Byte :=
  [preamble, start1, start2, lenOf d.length, lcs (lenOf d.length), tfiToChip, c] ++ d ++
    [dcs (tfiToChip :: c :: d), postamble]

/-! ### DecodeFrame (R123) -/

inductive FrameResult where
  | ok (cmd plen : Byte)
  | err (e : Err)
  deriving DecidableEq, Repr

/-- The checks on TFI, CMD, DATA and DCS, given the bytes from index 5 on: (c), then (d). -/
def decodeBody (t len : Byte) (body : List Byte) : FrameResult :=
  match body with
  | tfi :: cmd :: _ =>
    if tfi ≠ t then .err .framing
    else if sum8 (body.take (len.toNat + 1)) ≠ 0 then .err .checksum
    else .ok cmd (len - 2)
  | _ => .err .framing

/-- The checks of R123 in their order; the first that fails decides. `body` is the sequence from index 5 on, so
`m < LEN + 6` reads `body.length < LEN + 1`. -/
def decodeFrame (r : List Byte) (t : Byte) : FrameResult :=
  match r with
  | b0 :: b1 :: b2 :: len :: lcsByte :: body =>
    if b0 ≠ preamble ∨ b1 ≠ start1 ∨ b2 ≠ start2 then .err .framing
    else if len + lcsByte ≠ 0 then .err .framing
    else if len < 2 then .err .framing
    else if body.length < len.toNat + 1 then .err .framing
    else decodeBody t len body
  | _ => .err .framing

/-! ### AckMatch (R131) -/

def ackMatch (b : List Byte) : Bool := decide (b = ackFrame)

/-! ### The operations -/

/-- `(TXF, TXN) <- EncodeFrame(CMD, PBUF[0 .. PLEN−1])` (R121). -/
def State.encodeInto (s : State) (cmd plen : Byte) : State :=
  { s with
    mem := Memory.setRange txfBase (encodeFrame cmd (s.payload plen)) s.mem
    txn := BitVec.ofNat 9 (plen.toNat + 9) }

/-- ENCODE (R122). -/
def performEncode (cmd plen : Byte) (s : State) : State :=
  if s.tooLong plen then s.fail .invalidArg else (s.encodeInto cmd plen).succeed

/-- DECODE (R125), `t` the expected TFI. -/
def performDecode (t : Byte) (s : State) : State :=
  if s.rxnTooLarge then s.fail .invalidArg
  else
    match decodeFrame s.received t with
    | .ok cmd plen => (s.setResponse cmd plen).succeed
    | .err e => s.fail e

/-- CHECK_ACK (R132). -/
def performCheckAck (s : State) : State :=
  if s.rxnTooLarge then s.fail .invalidArg
  else if ackMatch s.received then s.succeed
  else s.fail .ackMismatch

/-! ### Meanings -/

/-- `fce.encode` (R122). -/
def execFceEncode (cmd plen : Byte) (s : State) : Host.Outcome State Fault Refusal :=
  acceptOp (opWordOf 1#4 false cmd plen) (performEncode cmd plen) s

/-- `fce.decode`: LOOP 0 expects TFI 0xD5 (R125). -/
def execFceDecode (cmd plen : Byte) (s : State) : Host.Outcome State Fault Refusal :=
  acceptOp (opWordOf 2#4 false cmd plen) (performDecode tfiToHost) s

/-- `fce.decode.loop`: LOOP 1 expects TFI 0xD4 (R125). -/
def execFceDecodeLoop (cmd plen : Byte) (s : State) : Host.Outcome State Fault Refusal :=
  acceptOp (opWordOf 2#4 true cmd plen) (performDecode tfiToChip) s

/-- `fce.checkack` (R132). -/
def execFceCheckAck (cmd plen : Byte) (s : State) : Host.Outcome State Fault Refusal :=
  acceptOp (opWordOf 3#4 false cmd plen) performCheckAck s

end Sys2Proof.Machine
end

