-- ==== Sys2Proof/Machine/BusOps.lean ====
section
/-! DEFINITION. What acceptance does for the three bus operations (30_encoding.md R91; 41_handshake.md R165 to R167); the
engine of Machine/Engine.lean then runs them. -/

namespace Sys2Proof.Machine

/-- `StartBus(opc, cmd)` (R91). -/
def State.startBus (s : State) (k : OpKind) (cmd : Byte) : State :=
  { s with
    opk := k
    cmdl := cmd
    ph := false
    idx := 0
    limit := s.param.attemptsOf s.tmo
    status := { s.status with busy := true, fsm := .start } }

/-- SEND_CHECK_ACK and EXCHANGE at acceptance: the size check, the frame, the start (R91). -/
def performSend (k : OpKind) (cmd plen : Byte) (s : State) : State :=
  if s.tooLong plen then s.fail .invalidArg else (s.encodeInto cmd plen).startBus k cmd

/-- `fce.sendack` (41_handshake.md R165). -/
def execFceSendAck (cmd plen : Byte) (s : State) : Host.Outcome State Fault Refusal :=
  acceptOp (opWordOf 4#4 false cmd plen) (performSend .sendCheckAck cmd plen) s

/-- `fce.readresp` (41_handshake.md R166). -/
def execFceReadResp (cmd plen : Byte) (s : State) : Host.Outcome State Fault Refusal :=
  acceptOp (opWordOf 5#4 false cmd plen) (fun s => s.startBus .readResponse cmd) s

/-- `fce.exchange` (41_handshake.md R167). -/
def execFceExchange (cmd plen : Byte) (s : State) : Host.Outcome State Fault Refusal :=
  acceptOp (opWordOf 6#4 false cmd plen) (performSend .exchange cmd plen) s

end Sys2Proof.Machine
end

