-- ==== Sys2Proof/Machine/Engine.lean ====
section
/-! DEFINITION. The Handshake Controller: one transition per value of STATUS.FSM (41_handshake.md R150 to R163). -/

namespace Sys2Proof.Machine

def State.setFsm (s : State) (f : Fsm) : State := { s with status := { s.status with fsm := f } }

/-- The start of a poll phase: PH, `ATT = 0`, AWAIT_READY (R156). -/
def State.beginPoll (s : State) (ph : Bool) : State :=
  { s with ph := ph, att := 0, status := { s.status with fsm := .awaitReady } }

/-- The entry to READ_HDR: `IDX <- 0` (R153, R157, R160), and RXN, which equals IDX from here on (10_state.md R43, log 13). -/
def State.beginRead (s : State) : State := { s with idx := 0, rxn := 0, status := { s.status with fsm := .readHdr } }

/-- START (R153). -/
def engineStart (s : State) : Host.Outcome State Fault Refusal :=
  let s1 : State := { s.csAssert with idx := 0 }
  match s.opk with
  | .sendCheckAck => .next (s1.setFsm .sending)
  | .exchange => .next (s1.setFsm .sending)
  | .readResponse => .next (if s.param.repoll then s1.beginPoll true else s1.beginRead)
  | .none => .next (if s.param.repoll then s1.beginPoll true else s1.beginRead)

/-- SENDING (R154). -/
def engineSending (s : State) : Host.Outcome State Fault Refusal :=
  if s.idx.toNat < txfSize then
    let s1 : State := { s.emit (.write (s.readByte (txfBase + s.idx.toNat))) with idx := s.idx + 1 }
    .next (if s.idx + 1 = s.txn then s1.beginPoll false else s1)
  else .fault .engineState

/-- AWAIT_READY: one attempt (R157). -/
def engineAwaitReady (s : State) : Host.Outcome State Fault Refusal :=
  let b := s.chipAnswer .status
  let s1 : State := { s.busRead .status with statb := b, att := s.att + 1 }
  .next
    (if isReady b then (if s.ph then s1.beginRead else { s1.setFsm .verifyAck with idx := 0 })
     else if s.att + 1 = s.limit then s1.fail .timeout
     else s1.setFsm .pollWait)

/-- POLL_WAIT (R158). -/
def enginePollWait (s : State) : Host.Outcome State Fault Refusal :=
  .next ((s.emit .delay).setFsm .awaitReady)

/-- `AfterAck()` (R160). -/
def State.afterAck (s : State) : State :=
  if s.param.repoll then { s.beginPoll true with idx := 0 } else s.beginRead

/-- VERIFY_ACK (R159). -/
def engineVerifyAck (s : State) : Host.Outcome State Fault Refusal :=
  if s.idx.toNat < ackrSize then
    let s1 : State :=
      { (s.busRead .data).writeByte (ackrBase + s.idx.toNat) (s.chipAnswer .data) with idx := s.idx + 1 }
    .next
      (if s.idx + 1 = 6 then
        if ¬ ackMatch s1.ackBytes then s1.fail .ackMismatch
        else if s.opk = .sendCheckAck then s1.succeed
        else s1.afterAck
       else s1)
  else .fault .engineState

/-- `b <- BusRead(DATA); RXF[IDX] <- b; IDX <- IDX + 1; RXN <- IDX` (R161, R162). -/
def State.receiveByte (s : State) : State :=
  { (s.busRead .data).writeByte (rxfBase + s.idx.toNat) (s.chipAnswer .data) with idx := s.idx + 1, rxn := s.idx + 1 }

/-- The header checks of R161, on `RXF[0..4]`. -/
def headerGood (h : List Byte) : Bool :=
  match h with
  | [b0, b1, b2, len, lcsByte] =>
    decide (b0 = preamble ∧ b1 = start1 ∧ b2 = start2) && decide (len + lcsByte = 0) && !decide (len < 2)
  | _ => false

/-- READ_HDR (R161). -/
def engineReadHdr (s : State) : Host.Outcome State Fault Refusal :=
  if s.idx.toNat < rxfSize then
    let s1 := s.receiveByte
    .next
      (if s.idx + 1 = 5 then
        if headerGood (s1.readBytes rxfBase 5) then s1.setFsm .readBody else s1.fail .framing
       else s1)
  else .fault .engineState

/-- `CompleteResponse()` (R163): the decode, then the command echo. -/
def State.completeResponse (s : State) : State :=
  match decodeFrame s.received tfiToHost with
  | .err e => s.fail e
  | .ok cmd plen =>
    if cmd ≠ s.cmdl + 1 then s.fail .framing
    else (s.setResponse cmd plen).succeed

/-- READ_BODY (R162). -/
def engineReadBody (s : State) : Host.Outcome State Fault Refusal :=
  if s.idx.toNat < rxfSize then
    let s1 := s.receiveByte
    .next
      (if s.idx.toNat + 1 = (s1.readByte (rxfBase + 3)).toNat + 7 then s1.completeResponse else s1)
  else .fault .engineState

/-- One engine step (R150, R151): quiescent while `BUSY = 0`. -/
def engineStep (s : State) : Host.Outcome State Fault Refusal :=
  if s.status.busy then
    match s.status.fsm with
    | .start => engineStart s
    | .sending => engineSending s
    | .awaitReady => engineAwaitReady s
    | .pollWait => enginePollWait s
    | .verifyAck => engineVerifyAck s
    | .readHdr => engineReadHdr s
    | .readBody => engineReadBody s
    | .idle => .fault .engineState
    | .success => .fault .engineState
    | .failed => .fault .engineState
  else .next s

/-- `n` engine steps in a row. -/
def engineRun : Nat → State → Host.Outcome State Fault Refusal
  | 0, s => .next s
  | n + 1, s =>
    match engineStep s with
    | .next t => engineRun n t
    | .fault r => .fault r
    | .refused r => .refused r

end Sys2Proof.Machine
end

