-- ==== Sys2Proof/Machine/CommandLayer.lean ====
section
/-! DEFINITION. The host's command layer (45_command_layer.md): what each command code's call sends, how its response
becomes a typed result, and the meaning of issuing a command code, which starts the call. Machine/HostPort.lean then
performs the call one host access a step. -/

namespace Sys2Proof.Machine

/-! ### Card commands inside a data exchange (R193, R202) -/

def mifareRead : Byte := 0x30#8
def mifareWrite : Byte := 0xA0#8
def authKeyA : Byte := 0x60#8
def authKeyB : Byte := 0x61#8

/-- The key type selects 0x60 or 0x61 (R202). -/
def KeyType.command : KeyType → Byte
  | .keyA => authKeyA
  | .keyB => authKeyB

/-- The operation a data-exchange command serves (R193). -/
def DataExchange.kind : DataExchange → CallKind
  | .authenticateBlock => .authenticateBlock
  | .readMemoryBlock => .readMemoryBlock
  | .writeMemoryBlock => .writeMemoryBlock

/-- The payload that a layout makes of the bytes the source names: each goes in at its place, counted modulo the places there
are, among the layout's other bytes (decision D41: "the contents, not the byte positions"; log 18). -/
def layOut (others : List Byte) : List Nat → List Byte → List Byte
  | _, [] => others
  | places, b :: named =>
    let rest := layOut others places.tail named
    rest.insertIdx (places.headD 0 % (rest.length + 1)) b

/-- What the driver sends of a UID: all of it up to four bytes; for a longer one the source does not say (log 18). -/
def sentUid (uid : List Byte) : List Byte := if uid.length ≤ 4 then uid else Config.authLongUid uid

/-- The bytes the source names of authenticateBlock's payload (R194, R202): the key command, 0x60 or 0x61, travels in the DATA
(30_encoding.md R106). -/
def authNamed (a : Args) : List Byte := [a.slot, a.keyType.command, a.block] ++ a.key ++ sentUid a.uid

/-- The same of readMemoryBlock, the card command 0x30 among them (R194, R203; 30_encoding.md R106). -/
def readNamed (a : Args) : List Byte := [a.slot, mifareRead, a.block]

/-- The same of writeMemoryBlock, the card command 0xA0 among them (R194, R204; 30_encoding.md R106). -/
def writeNamed (a : Args) : List Byte := [a.slot, mifareWrite, a.block] ++ a.data

/-- The named bytes in the layout a command has for them. -/
def laidOut (layout : List Byte → PayloadLayout) (named : List Byte) : List Byte :=
  layOut (layout named).others (layout named).places named

/-- The DATA bytes of a call's frame (R194, R198 to R204): the bytes the source names, in a free layout (log 18). The retry
count of RFConfiguration is passed through unchanged (R199). -/
def CallKind.payload (a : Args) : CallKind → List Byte
  | .getFirmwareVersion => []
  | .generalStatus => Config.generalStatusPayload
  | .samConfig => laidOut Config.samLayout [Config.samMode, Config.samTimeout]
  | .rfConfiguration => Config.rfBefore ++ [a.maxRetries] ++ Config.rfAfter
  | .readPassiveTargetID => laidOut Config.passiveLayout [1, a.baudRate]
  | .authenticateBlock => laidOut Config.authLayout (authNamed a)
  | .readMemoryBlock => laidOut Config.readLayout (readNamed a)
  | .writeMemoryBlock => laidOut Config.writeLayout (writeNamed a)
  | .sendCommandCheckAck => a.raw

/-- Buffers of other sizes than the fixed ones are rejected with InvalidArgument before any block access (R205). -/
def CallKind.sizesValid (a : Args) : CallKind → Bool
  | .authenticateBlock => decide (a.key.length = 6)
  | .writeMemoryBlock => decide (a.data.length = 16)
  | .getFirmwareVersion => true
  | .generalStatus => true
  | .samConfig => true
  | .rfConfiguration => true
  | .readPassiveTargetID => true
  | .readMemoryBlock => decide (a.outSize = 16)
  | .sendCommandCheckAck => true

/-- Whether the call reads a response: all but the fire-and-forget RFConfiguration (R199) and the plain
sendCommandCheckAck (R95). -/
def CallKind.expectsData : CallKind → Bool
  | .rfConfiguration => false
  | .sendCommandCheckAck => false
  | .getFirmwareVersion => true
  | .generalStatus => true
  | .samConfig => true
  | .readPassiveTargetID => true
  | .authenticateBlock => true
  | .readMemoryBlock => true
  | .writeMemoryBlock => true

/-! ### Typed results -/

/-- The byte of the decoded payload at a place (log 30). -/
def payloadByte (got : List Byte) (pos : Nat) : Byte :=
  match got[pos]? with
  | some b => b
  | none => Config.missingByte got pos

/-- `Σ u[i] · 256^(L−1−i)` modulo 2^32, the first byte most significant (R201). -/
def bigEndian (u : List Byte) : Word := BitVec.ofNat 32 (u.foldl (fun n b => n * 256 + b.toNat) 0)

/-- The CardID of a UID (R201): 1 to 4 bytes big-endian; for a longer one, four of its bytes by UID_FOLD (log 19). -/
def cardID (u : List Byte) : Word :=
  if u.length = 0 then Config.emptyUidCard u
  else if u.length ≤ 4 then bigEndian u
  else bigEndian ((List.finRange 4).map (fun i => u.getD (Config.uidFold u.length i % u.length) 0))

/-- The UID a readPassiveTargetID response reports (R200). -/
def reportedUid (got : List Byte) : List Byte :=
  (List.range (payloadByte got Config.uidLengthPos).toNat).map (fun j => payloadByte got (Config.uidPos + j))

/-- The CardID, 0 when the target count is 0 (R200). -/
def passiveResult (got : List Byte) : Word :=
  if payloadByte got Config.targetCountPos = 0 then 0 else cardID (reportedUid got)

/-- A status byte other than 0 is StatusFailure and gives the sentinel 0 (R196); success is not 0 (R202). -/
def exchangeResult (got : List Byte) : Word :=
  if payloadByte got Config.statusPos = 0 then BitVec.ofNat 32 ((Config.successValue got).val + 1) else 0

/-- What a call returns, `ok` telling whether every operation it needed ended OK; a failure gives the sentinel (R192). -/
def CallKind.result (ok : Bool) (got : List Byte) : CallKind → Result
  | .getFirmwareVersion => .word (if ok then Config.fwPack got else 0)
  | .generalStatus => .word (if ok then Config.generalStatusResult got else 0)
  | .samConfig => .flag ok
  | .rfConfiguration => .nothing
  | .readPassiveTargetID => .word (if ok then passiveResult got else 0)
  | .authenticateBlock => .word (if ok then exchangeResult got else 0)
  | .readMemoryBlock => .word (if ok then exchangeResult got else 0)
  | .writeMemoryBlock => .word (if ok then exchangeResult got else 0)
  | .sendCommandCheckAck => .flag ok

/-- The block of readMemoryBlock, which has no value when the status is 0 (R203). -/
def CallKind.blockOut (ok : Bool) (got : List Byte) (k : CallKind) : Option (List Byte) :=
  if k = .readMemoryBlock ∧ ok = true ∧ exchangeResult got ≠ 0 then some ((List.finRange 16).map (Config.memoryBlock got))
  else none

/-! ### Starting and ending a call -/

def State.setCall (s : State) (c : Option Call) : State := { s with client := { s.client with call := c } }

/-- The call returns to its caller. -/
def State.returnCall (s : State) (r : Result) (b : Option (List Byte)) : State :=
  { s with client := { s.client with call := none, result := some r, block := b } }

/-- A call begins with what it sends and its timeout; nothing has been accessed yet. -/
def State.beginCall (s : State) (k : CallKind) (cmd : Byte) (payload : List Byte) (timeoutMs : BitVec 16) : State :=
  { s with
    client := { s.client with
      call := some
        { kind := k, cmd := cmd, payload := payload, timeoutMs := timeoutMs, phase := .saveBus, saved := s.transport,
          got := [] }
      result := none
      block := none } }

/-- Begin a call, or return the sentinel at once when its arguments are invalid (R205; 30_encoding.md R95). -/
def openCall (k : CallKind) (cmd : Byte) (payload : List Byte) (timeoutMs : BitVec 16) (valid : Bool) (s : State) :
    Host.Outcome State Fault Refusal :=
  match s.client.call with
  | some _ => .refused .concurrentCall
  | none =>
    .next (if valid then s.beginCall k cmd payload timeoutMs else s.returnCall (k.result false []) none)

/-- Issue a command code: the call begins, its arguments captured; its accesses follow, one a step (log 15). R195 gives the
operations no timeout argument; that each passes `args.timeoutMs`, 1000 unless the caller sets it, is a DESIGN CHOICE
(log 6). -/
def startCall (k : CallKind) (cmd : Byte) (s : State) : Host.Outcome State Fault Refusal :=
  openCall k cmd (k.payload s.client.args) s.client.args.timeoutMs (k.sizesValid s.client.args) s

/-! ### Meanings -/

/-- Command code 0x02: getFirmwareVersion (R193, R197). -/
def execCmdFirmwareVersion (s : State) : Host.Outcome State Fault Refusal := startCall .getFirmwareVersion 0x02#8 s

/-- Command code 0x04: general status, used by no operation of the source (R193, log 16). -/
def execCmdGeneralStatus (s : State) : Host.Outcome State Fault Refusal := startCall .generalStatus 0x04#8 s

/-- Command code 0x14: SAMConfig (R193, R198). -/
def execCmdSamConfiguration (s : State) : Host.Outcome State Fault Refusal := startCall .samConfig 0x14#8 s

/-- Command code 0x32: RFConfiguration (R193, R199). -/
def execCmdRfConfiguration (s : State) : Host.Outcome State Fault Refusal := startCall .rfConfiguration 0x32#8 s

/-- Command code 0x4A: readPassiveTargetID (R193, R200). -/
def execCmdInListPassiveTarget (s : State) : Host.Outcome State Fault Refusal :=
  startCall .readPassiveTargetID 0x4A#8 s

/-- Command code 0x40: authenticateBlock, readMemoryBlock or writeMemoryBlock (R193, R202 to R204). -/
def execCmdDataExchange (s : State) : Host.Outcome State Fault Refusal :=
  startCall s.client.args.dataExchange.kind 0x40#8 s

end Sys2Proof.Machine
end

