-- ==== Sys2Proof/Machine/Dispatch.lean ====
section
/-! DEFINITION. One arm per constructor of Instr: each calls its own meaning. -/

namespace Sys2Proof.Machine

def exec (i : Instr) (s : State) : Host.Outcome State Fault Refusal :=
  match i with
  | .fceEncode cmd plen => Sys2Proof.Machine.execFceEncode cmd plen s
  | .fceDecode cmd plen => Sys2Proof.Machine.execFceDecode cmd plen s
  | .fceDecodeLoop cmd plen => Sys2Proof.Machine.execFceDecodeLoop cmd plen s
  | .fceCheckAck cmd plen => Sys2Proof.Machine.execFceCheckAck cmd plen s
  | .fceSendAck cmd plen => Sys2Proof.Machine.execFceSendAck cmd plen s
  | .fceReadResp cmd plen => Sys2Proof.Machine.execFceReadResp cmd plen s
  | .fceExchange cmd plen => Sys2Proof.Machine.execFceExchange cmd plen s
  | .cmdFirmwareVersion => Sys2Proof.Machine.execCmdFirmwareVersion s
  | .cmdGeneralStatus => Sys2Proof.Machine.execCmdGeneralStatus s
  | .cmdSamConfiguration => Sys2Proof.Machine.execCmdSamConfiguration s
  | .cmdRfConfiguration => Sys2Proof.Machine.execCmdRfConfiguration s
  | .cmdInListPassiveTarget => Sys2Proof.Machine.execCmdInListPassiveTarget s
  | .cmdDataExchange => Sys2Proof.Machine.execCmdDataExchange s

end Sys2Proof.Machine
end

