-- ==== Sys2Proof/Machine/HostPort.lean ====
section
/-! DEFINITION. The host port (20_memory.md): the register window's reads and writes, the host's operations, and the
accesses of a command-layer call in the order of 45_command_layer.md R190, R206 and 70_reset R256. -/

namespace Sys2Proof.Machine

/-! ### The register window -/

/-- A 32-bit write to OP (30_encoding.md R91): the word's instruction, else ILLEGAL_OP. -/
def opWrite (v : Word) (s : State) : Host.Outcome State Fault Refusal :=
  match decode (.opWord v) with
  | .ok i => exec i s
  | .reject _ => illegalOp v s

/-- A host write at a window offset (20_memory.md R71, R72, R75): OP, TMO, RXN at 32 bits and PBUF, RXF at 8 bits, under
the busy rule; every other write has no effect. -/
def windowWrite (w : Width) (off : Nat) (v : HostData) (s : State) : Host.Outcome State Fault Refusal :=
  match w, regionOf off with
  | .w32, .reg .op => opWrite (v.setWidth 32) s
  | .w32, .reg .tmo => .next (s.guardBusy (fun s => { s with tmo := v.setWidth 16 }))
  | .w32, .reg .rxn => .next (s.guardBusy (fun s => { s with rxn := v.setWidth 9 }))
  | .w8, .pbuf => .next (s.guardBusy (fun s => s.writeByte off (v.setWidth 8)))
  | .w8, .rxf => .next (s.guardBusy (fun s => s.writeByte off (v.setWidth 8)))
  | _, _ => .next s

/-- What a host read at a window offset returns (20_memory.md R71, R72, R74): a reserved offset reads as zero at any width
(10_state.md R42). A read changes nothing. -/
def windowRead (w : Width) (off : Nat) (s : State) : HostData :=
  match w, regionOf off with
  | .w32, .reg r => (s.regWord r).setWidth 64
  | .w8, .pbuf => (s.readByte off).setWidth 64
  | .w8, .txf => (s.readByte off).setWidth 64
  | .w8, .rxf => (s.readByte off).setWidth 64
  | .w8, .ackr => (s.readByte off).setWidth 64
  | _, .reserved => 0
  | _, _ => w.cut (Config.freeData s.tick)

def State.logRead (s : State) (v : HostData) : State :=
  { s with client := { s.client with reads := s.client.reads ++ [v] } }

/-- One access of the host's own program (20_memory.md R76). -/
def hostAccess (a : Access) (s : State) : Host.Outcome State Fault Refusal :=
  match a with
  | .read w addr =>
    match s.param.offsetOf addr with
    | some off => .next (s.logRead (windowRead w off s))
    | none => .fault .outsideWindow
  | .write w addr v =>
    match s.param.offsetOf addr with
    | some off => windowWrite w off v s
    | none => .fault .outsideWindow

/-! ### A command-layer call -/

/-- The call moves to a phase. -/
def State.toPhase (s : State) (c : Call) (p : Phase) : State := s.setCall (some { c with phase := p })

/-- What the call does after a STATUS read while it waits for its SEND_CHECK_ACK (R190, 30_encoding.md R95). -/
def afterSend (c : Call) (st : Word) : Phase :=
  if statusDone st then
    if statusOk st then (if c.kind.expectsData then .writeRead else .restoreBus true) else .restoreBus false
  else .waitSend

/-- The same while it waits for its READ_RESPONSE; the payload length comes with the STATUS read (10_state.md R31). -/
def afterRead (st : Word) : Phase :=
  if statusDone st then
    if statusOk st then .fetch 0 (statusRespLen st).toNat else .restoreBus false
  else .waitRead

/-- One host step of a call in progress. A payload that the PLEN field cannot announce is rejected with InvalidArgument
before any access (log 25). -/
def callStep (c : Call) (s : State) : Host.Outcome State Fault Refusal :=
  match c.phase with
  | .saveBus =>
    .next
      (if c.payload.length ≤ 255 then s.setCall (some { c with saved := s.transport, phase := .forceBus })
       else s.returnCall (c.kind.result false []) none)
  | .forceBus => .next { s.toPhase c .writeTimeout with transport := Config.requiredBus }
  | .writeTimeout =>
    andThen (windowWrite .w32 (Reg.offset .tmo) (c.timeoutMs.setWidth 64) s) (fun t => t.toPhase c (.writePayload 0))
  | .writePayload i =>
    match c.payload[i]? with
    | some b => andThen (windowWrite .w8 (pbufBase + i) (b.setWidth 64) s) (fun t => t.toPhase c (.writePayload (i + 1)))
    | none => .next (s.toPhase c .writeSend)
  | .writeSend =>
    andThen
      (windowWrite .w32 (Reg.offset .op)
        ((opWordOf 4#4 false c.cmd (BitVec.ofNat 8 c.payload.length)).setWidth 64) s)
      (fun t => t.toPhase c .waitSend)
  | .waitSend => .next (s.toPhase c (afterSend c ((windowRead .w32 (Reg.offset .status) s).setWidth 32)))
  | .writeRead =>
    andThen (windowWrite .w32 (Reg.offset .op) ((opWordOf 5#4 false c.cmd 0).setWidth 64) s)
      (fun t => t.toPhase c .waitRead)
  | .waitRead => .next (s.toPhase c (afterRead ((windowRead .w32 (Reg.offset .status) s).setWidth 32)))
  | .fetch i n =>
    .next
      (if i < n then
        s.setCall (some { c with
          got := c.got ++ [(windowRead .w8 (rxfBase + 7 + i) s).setWidth 8], phase := .fetch (i + 1) n })
       else s.toPhase c (.restoreBus true))
  | .restoreBus ok =>
    .next { s.returnCall (c.kind.result ok c.got) (c.kind.blockOut ok c.got) with transport := c.saved }

/-! ### The host agent -/

/-- One operation of the host's program, already taken from it. `wait` reads STATUS and stands until BUSY is 0
(30_encoding.md R111); a command code outside R193's list goes through `sendCommandCheckAck`, which carries any byte
(R106, log 17). `sendCommandCheckAck` of an array without a command byte is refused, `false`, before any write (R95); a
saved bus configuration ends with its session when it is restored (45_command_layer.md R207). A second backup before any restore
replaces the first, and a restore without one changes nothing: R195 says neither, DESIGN CHOICE (log 36). -/
def hostOp (o : HostOp) (s : State) : Host.Outcome State Fault Refusal :=
  match o with
  | .access a => hostAccess a s
  | .wait =>
    .next
      (if statusBusy (s.regWord .status) then
        { s with client := { s.client with program := .wait :: s.client.program } }
       else s.logRead ((s.regWord .status).setWidth 64))
  | .command c =>
    match decode (.cmdByte c) with
    | .ok i => exec i s
    | .reject _ => startCall .sendCommandCheckAck c s
  | .sendCommandCheckAck cmd tmo => openCall .sendCommandCheckAck (cmd.headD 0) cmd.tail tmo (!cmd.isEmpty) s
  | .setArgs a => .next { s with client := { s.client with args := a } }
  | .setBus b => .next { s with transport := b }
  | .backupBus => .next { s with client := { s.client with backup := some s.transport } }
  | .restoreBus =>
    .next
      (match s.client.backup with
       | some b => { s with transport := b, client := { s.client with backup := none } }
       | none => s)

/-- One step of the host: the call in progress, else the next operation of its program, else nothing (log 29). -/
def hostTurn (s : State) : Host.Outcome State Fault Refusal :=
  match s.client.call with
  | some c => callStep c s
  | none =>
    match s.client.program with
    | [] => .next s
    | o :: rest => hostOp o { s with client := { s.client with program := rest } }

/-- One turn of one agent (00_scope.md R6, 60_exceptions.md R231). -/
def runTurn (t : Turn) (s : State) : Host.Outcome State Fault Refusal :=
  match t with
  | .host => hostTurn s
  | .engine => engineStep s
  | .reset => .next s.resetBlock

/-- Whose turn it is: the next of `turns`, else a free value (log 2). -/
def State.nextTurn (s : State) : Turn :=
  match s.turns with
  | t :: _ => t
  | [] => Config.freeTurn s.tick

/-- The turn is used up and the tick advances (log 7). -/
def State.takeTurn (s : State) : State := { s with turns := s.turns.tail, tick := s.tick + 1 }

/-! ### Loading an instruction (log 27) -/

/-- The host operation that issues an encoded instruction: a write to OP, or a command code through the command layer. -/
def Encoded.issue (p : Param) : Encoded → HostOp
  | .opWord w => .access (.write .w32 (p.fceBase + Reg.offset .op) (w.setWidth 64))
  | .cmdByte c => .command c

/-- The host, between calls, is about to perform `o` and moves next. -/
def State.withHostOp (s : State) (o : HostOp) : State :=
  { s with
    client := { s.client with program := o :: s.client.program, call := none }
    turns := .host :: s.turns }

end Sys2Proof.Machine
end

