-- ==== Sys2Proof/Machine/Step.lean ====
section
/-! DEFINITION. One step of the machine, and placing an instruction where the next step runs it. -/

namespace Sys2Proof.Machine

/-- The agent whose turn it is takes one atomic step (00_scope.md R6, 20_memory.md R76). -/
def step (s : State) : Host.Outcome State Fault Refusal := runTurn s.nextTurn s.takeTurn

/-- The table's `nbits` bits `w` stored where the next step runs them: the host's next operation (log 27). -/
def State.withFetchWord (s : State) (nbits w : Nat) : State := s.withHostOp (Encoded.issue s.param (encodedOfTable nbits w))

end Sys2Proof.Machine
end

