-- ==== Sys2Proof/Machine/Asm.lean ====
section
/-! DEFINITION. The host assembly of 30_encoding.md R109 to R111 and the wire realisation of the transport's events. -/

namespace Sys2Proof.Machine.Asm

open Sys2Proof

/-! ### Accesses (R109) -/

def wr32 (p : Param) (r : Reg) (v : Word) : HostOp := .access (.write .w32 (p.fceBase + r.offset) (v.setWidth 64))
def rd32 (p : Param) (r : Reg) : HostOp := .access (.read .w32 (p.fceBase + r.offset))
/-- `buf` is the base offset of a buffer. -/
def wr8 (p : Param) (buf i : Nat) (b : Byte) : HostOp := .access (.write .w8 (p.fceBase + buf + i) (b.setWidth 64))
def rd8 (p : Param) (buf i : Nat) : HostOp := .access (.read .w8 (p.fceBase + buf + i))

/-! ### Operation mnemonics (R110) -/

/-- One mnemonic of R110 or one command code, as the host operation that issues it. -/
def instr (p : Param) (i : Instr) : HostOp := Encoded.issue p (encode i)

/-! ### Pseudo-instructions (R111) and the source's entry point (R95) -/

def wrbuf (p : Param) (buf : Nat) : Nat → List Byte → List HostOp
  | _, [] => []
  | i, b :: bs => wr8 p buf i b :: wrbuf p buf (i + 1) bs

/-- `sendack CMD, [b...], TMO` (R111). More than 255 bytes have no PLEN that announces them and the spec does not say what the
assembler does: there is no expansion, a DESIGN CHOICE (log 25). -/
def sendack (p : Param) (cmd : Byte) (data : List Byte) (tmo : BitVec 16) : Option (List HostOp) :=
  if data.length ≤ 255 then
    some
      ([wr32 p .tmo (tmo.setWidth 32)] ++ wrbuf p pbufBase 0 data ++
        [instr p (.fceSendAck cmd (BitVec.ofNat 8 data.length)), .wait])
  else none

/-- `sendCommandCheckAck(cmd, len, timeoutMs)` (R95, R195), the public operation with its guard and its boolean. -/
def sendCommandCheckAck (cmd : List Byte) (tmo : BitVec 16) : HostOp := .sendCommandCheckAck cmd tmo

/-! ### Wire realisation (10_state.md R46, D21) -/

/-- What the transport does on the wire for one event. -/
inductive WireAction where
  | level (asserted : Bool)
  | shiftOut (b : Byte)
  | shiftIn (b : Byte)
  | waitMs (ms : Nat)
  deriving DecidableEq, Repr

/-- The operation byte that `PN532_SPI` puts before a transfer (93_implementation_defined.md G2, PRESUMED, log 26). -/
def operationByte (x : XferPrefix) (b : Byte) : List WireAction :=
  match x with
  | .plain => []
  | .pn532Spi => [.shiftOut b]

/-- One event on the wire of an instance: with `NONE` each transfer is one byte (R46). -/
def wireOf (p : Param) (e : BusEvent) : List WireAction :=
  match e with
  | .csAssert => [.level true]
  | .csDeassert => [.level false]
  | .write b => operationByte p.xferPrefix 0x01#8 ++ [.shiftOut b]
  | .read .status b => operationByte p.xferPrefix 0x02#8 ++ [.shiftIn b]
  | .read .data b => operationByte p.xferPrefix 0x03#8 ++ [.shiftIn b]
  | .delay => [.waitMs p.pollDelayMs.toNat]

end Sys2Proof.Machine.Asm
end

