-- ==== Sys2Proof/Safety.lean ====
section
/-! DEFINITION. What the spec promises of every reachable state, as one invariant `Inv`, and the words claims use: a quiet
block, the bracketing of the bus trace, the state an operation without bus activity ends in. -/

namespace Sys2Proof.Machine

/-! ### Words of the claims -/

/-- No operation runs and chip-select is released: the block between operations (10_state.md R24, R28). -/
abbrev State.quiet (s : State) : Prop := s.status.busy = false ∧ s.status.cs = false

/-- What an operation without bus activity leaves when word `w` was accepted on a quiet block and it ended with `e`
(`noError` for Success), the decoded CMD and length `rc`, `rl`: OP, ATT, OPK and STATUS, and nothing else. -/
def State.ended (s : State) (w : Word) (e : Err) (rc rl : Byte) : State :=
  { s with
    op := w
    att := 0
    opk := .none
    status :=
      { busy := false, done := true, ok := decide (e = .noError), err := e, cs := false, rej := false,
        fsm := if e = .noError then .success else .failed, respCmd := rc, respLen := rl } }

/-- What acceptance of a bus operation leaves on a quiet block, after the frame was encoded (30_encoding.md R91). -/
def State.started (s : State) (w : Word) (k : OpKind) (cmd : Byte) : State :=
  { s with
    op := w
    att := 0
    opk := k
    cmdl := cmd
    ph := false
    idx := 0
    limit := s.param.attemptsOf s.tmo
    status :=
      { busy := true, done := false, ok := false, err := .noError, cs := false, rej := false, fsm := .start,
        respCmd := 0, respLen := 0 } }

/-- A rejected write: only REJ (20_memory.md R75). -/
def State.rejected (s : State) : State := { s with status := { s.status with rej := true } }

/-- An instruction that is an operation word of the block (30_encoding.md R92). -/
def isOperation (i : Instr) : Bool :=
  match encode i with
  | .opWord _ => true
  | .cmdByte _ => false

/-- The word `0x00PPCCnn` of R90 and R110 as a number, `low` its bits 7:0. -/
def wordOf (low : Nat) (cmd plen : Byte) : Word := BitVec.ofNat 32 (low + 256 * cmd.toNat + 65536 * plen.toNat)

/-- The illegal operation words of R108, read from the word as a number. -/
abbrev illegalWord (w : Word) : Prop :=
  w.toNat % 16 = 0 ∨ 7 ≤ w.toNat % 16 ∨ w.toNat / 32 % 8 ≠ 0 ∨ w.toNat / 16777216 ≠ 0 ∨
    (w.toNat / 16 % 2 = 1 ∧ w.toNat % 16 ≠ 2)

/-- DecodeFrame as 40_codec.md R123 writes it, byte index by byte index. -/
def decodeInOrder (r : List Byte) (t : Byte) : FrameResult :=
  if r.length < 5 then .err .framing
  else if r.getD 0 0 ≠ 0x00#8 ∨ r.getD 1 0 ≠ 0x00#8 ∨ r.getD 2 0 ≠ 0xFF#8 then .err .framing
  else if ((r.getD 3 0).toNat + (r.getD 4 0).toNat) % 256 ≠ 0 then .err .framing
  else if (r.getD 3 0).toNat < 2 then .err .framing
  else if r.length < (r.getD 3 0).toNat + 6 then .err .framing
  else if r.getD 5 0 ≠ t then .err .framing
  else if (((r.drop 5).take ((r.getD 3 0).toNat + 1)).map BitVec.toNat).sum % 256 ≠ 0 then .err .checksum
  else .ok (r.getD 6 0) (BitVec.ofNat 8 ((r.getD 3 0).toNat - 2))

/-- What DECODE of the RXN raw bytes leaves on a quiet block, `t` the expected TFI (40_codec.md R125). -/
def State.decoded (s : State) (w : Word) (t : Byte) : State :=
  if 262 < s.rxn.toNat then s.ended w .invalidArg 0 0
  else
    match decodeFrame (s.readBytes 0x400 s.rxn.toNat) t with
    | .ok cmd plen => s.ended w .noError cmd plen
    | .err e => s.ended w e 0 0

/-- What CHECK_ACK of the RXN raw bytes ends with (40_codec.md R132). -/
def State.ackOutcome (s : State) : Err :=
  if 262 < s.rxn.toNat then .invalidArg
  else if s.readBytes 0x400 s.rxn.toNat = [0x00#8, 0x00#8, 0xFF#8, 0x00#8, 0xFF#8, 0x00#8] then .noError
  else .ackMismatch

/-- TXF and TXN of `t` are those of `s` with the frame of `cmd` and `s`'s payload encoded into them, and no other buffer byte
differs (40_codec.md R121). -/
abbrev framed (s t : State) (cmd plen : Byte) : Prop :=
  t.txn.toNat = plen.toNat + 9 ∧
    (∀ i, i < plen.toNat + 9 →
      Memory.get (0x200 + i) t.mem = (encodeFrame cmd (s.readBytes 0x100 plen.toNat))[i]?) ∧
    (∀ off, ¬ (0x200 ≤ off ∧ off < 0x200 + (plen.toNat + 9)) → Memory.get off t.mem = Memory.get off s.mem)

/-- A reserved offset of the window (10_state.md R21, R42). -/
abbrev reservedOffset (off : Nat) : Prop :=
  (0x020 ≤ off ∧ off ≤ 0x0FF) ∨ (0x1FD ≤ off ∧ off ≤ 0x1FF) ∨ (0x306 ≤ off ∧ off ≤ 0x3FF) ∨
    (0x506 ≤ off ∧ off ≤ 0x5FF) ∨ (0x606 ≤ off ∧ off ≤ 0xFFF)

/-- A buffer offset (R21). -/
abbrev bufferOffset (off : Nat) : Prop :=
  (0x100 ≤ off ∧ off ≤ 0x1FC) ∨ (0x200 ≤ off ∧ off ≤ 0x305) ∨ (0x400 ≤ off ∧ off ≤ 0x505) ∨
    (0x600 ≤ off ∧ off ≤ 0x605)

/-- The two states differ at most in the host's side and the model's own fields: the block is the same. -/
abbrev sameBlock (s t : State) : Prop :=
  t.op = s.op ∧ t.status = s.status ∧ t.tmo = s.tmo ∧ t.rxn = s.rxn ∧ t.txn = s.txn ∧ t.att = s.att ∧ t.limit = s.limit ∧
    t.statb = s.statb ∧ t.param = s.param ∧ t.mem = s.mem ∧ t.opk = s.opk ∧ t.cmdl = s.cmdl ∧ t.ph = s.ph ∧ t.idx = s.idx ∧
    t.trace = s.trace

/-- How a READ_RESPONSE of command `cmd` ends when the chip sends the whole frame `f` with a good header: the error, then
RESP_CMD and RESP_LEN (41_handshake.md R163). -/
def responseOutcome (f : List Byte) (cmd : Byte) : Err × Byte × Byte :=
  match decodeFrame f 0xD5#8 with
  | .err e => (e, 0, 0)
  | .ok c n => if c = cmd + 1 then (.noError, c, n) else (.framing, 0, 0)

/-- A call just begun, with its code, its payload and its timeout, and nothing else changed (45_command_layer.md R190). -/
def State.calledWith (s : State) (k : CallKind) (cmd : Byte) (payload : List Byte) (tmo : BitVec 16) : State :=
  { s with
    client := { s.client with
      call := some
        { kind := k, cmd := cmd, payload := payload, timeoutMs := tmo, phase := .saveBus, saved := s.transport, got := [] }
      result := none
      block := none } }

/-- What issuing a command code leaves when no call runs and its buffers have their sizes: the call begun, with the code and
the payload of its arguments, and nothing else (45_command_layer.md R190, R193; log 15). -/
def State.called (s : State) (k : CallKind) (cmd : Byte) : State :=
  s.calledWith k cmd (k.payload s.client.args) s.client.args.timeoutMs

/-- What a call returns on a failure (45_command_layer.md R192, R194). -/
def CallKind.sentinel : CallKind → Result
  | .getFirmwareVersion => .word 0
  | .generalStatus => .word 0
  | .samConfig => .flag false
  | .rfConfiguration => .nothing
  | .readPassiveTargetID => .word 0
  | .authenticateBlock => .word 0
  | .readMemoryBlock => .word 0
  | .writeMemoryBlock => .word 0
  | .sendCommandCheckAck => .flag false

/-! ### The bus trace -/

/-- The chip-select line after an event, `none` once the bracketing is broken: asserted twice, released twice, or a
transfer or delay outside the bracket (41_handshake.md R164, 20_memory.md R86). -/
def bracketStep (line : Option Bool) (e : BusEvent) : Option Bool :=
  match line, e with
  | some false, .csAssert => some true
  | some true, .csDeassert => some false
  | some true, .write _ => some true
  | some true, .read _ _ => some true
  | some true, .delay => some true
  | _, _ => none

/-- The line after a whole trace that starts released. -/
def bracket (trace : List BusEvent) : Option Bool := trace.foldl bracketStep (some false)

/-- A transfer or a delay, as opposed to a chip-select change (R150). -/
def isTransfer : BusEvent → Bool
  | .csAssert => false
  | .csDeassert => false
  | .write _ => true
  | .read _ _ => true
  | .delay => true

/-- The events of a poll phase that reads these status bytes: a delay between two reads, none before the first and none
after the last (R156, R158). -/
def pollEvents : List Byte → List BusEvent
  | [] => []
  | [b] => [.read .status b]
  | b :: c :: rest => .read .status b :: .delay :: pollEvents (c :: rest)

/-- The events of reading these data bytes. -/
def dataReads (bs : List Byte) : List BusEvent := bs.map (.read .data)

/-- The status bytes of a poll phase that the chip passes: not ready, then ready, within the bound (R168). -/
def pollPasses (limit : Nat) (polls : List Byte) : Prop :=
  polls.length ≤ limit ∧
    ∃ waits r, polls = waits ++ [r] ∧ (∀ b ∈ waits, b.toNat % 2 = 0) ∧ r.toNat % 2 = 1

/-- The status bytes of a poll phase that times out (R168). -/
def pollFails (limit : Nat) (polls : List Byte) : Prop := polls.length = limit ∧ ∀ b ∈ polls, b.toNat % 2 = 0

/-- The header checks of R161 on the first five bytes. -/
abbrev headerPasses (h : List Byte) : Prop :=
  h[0]? = some 0x00#8 ∧ h[1]? = some 0x00#8 ∧ h[2]? = some 0xFF#8 ∧
    ((h.getD 3 0).toNat + (h.getD 4 0).toNat) % 256 = 0 ∧ 2 ≤ (h.getD 3 0).toNat

/-- What a chip can answer in the response part of READ_RESPONSE or EXCHANGE, status bytes then data bytes, and how the
operation ends: the error, RESP_CMD, RESP_LEN (41_handshake.md R161 to R163, R166, R167, R170). -/
inductive ResponsePart (repoll : Bool) (limit : Nat) (cmd : Byte) : List Byte → List Byte → Err × Byte × Byte → Prop where
  | timeout (polls : List Byte) (hr : repoll = true) (hp : pollFails limit polls) :
      ResponsePart repoll limit cmd polls [] (.timeout, 0, 0)
  | header (polls h : List Byte) (hp : if repoll then pollPasses limit polls else polls = []) (hl : h.length = 5)
      (hh : ¬ headerPasses h) : ResponsePart repoll limit cmd polls h (.framing, 0, 0)
  | frame (polls f : List Byte) (hp : if repoll then pollPasses limit polls else polls = []) (hh : headerPasses f)
      (hl : f.length = (f.getD 3 0).toNat + 7) : ResponsePart repoll limit cmd polls f (responseOutcome f cmd)

/-- STATUS after an operation has ended with this outcome (60_exceptions.md R226, 10_state.md R31). -/
def Status.endedWith (st : Status) (out : Err × Byte × Byte) : Status :=
  { st with
    busy := false, done := true, ok := decide (out.1 = .noError), err := out.1, cs := false
    fsm := if out.1 = .noError then .success else .failed
    respCmd := out.2.1, respLen := out.2.2 }

/-- The largest number of engine steps of an operation (R170). -/
def stepBound : Nat := 1 + 262 + 2 * (2 * 65535 - 1) + 6 + 5 + 257

/-! ### The invariant -/

/-- The operations that send a frame and wait for its ACK. -/
def OpKind.sends (k : OpKind) : Bool := decide (k = .sendCheckAck ∨ k = .exchange)

/-- The operations that read a response. -/
def OpKind.reads (k : OpKind) : Bool := decide (k = .readResponse ∨ k = .exchange)

/-- The `n` buffer bytes from an offset have been written. -/
abbrev State.listed (s : State) (off n : Nat) : Prop := ∀ i, i < n → (Memory.get (off + i) s.mem).isSome = true

/-- TXF holds a whole frame of TXN bytes (10_state.md R34, 30_encoding.md R97). -/
abbrev State.frameReady (s : State) : Prop :=
  9 ≤ s.txn.toNat ∧ s.txn.toNat ≤ txfSize ∧ s.listed txfBase s.txn.toNat

/-- What each engine state keeps of the operation in progress (41_handshake.md R153 to R163). -/
def State.stage (s : State) : Prop :=
  match s.status.fsm with
  | .idle => True
  | .success => True
  | .failed => True
  | .start => s.opk ≠ .none ∧ (s.opk.sends = true → s.frameReady)
  | .sending => s.opk.sends = true ∧ s.frameReady ∧ s.idx.toNat < s.txn.toNat
  | .awaitReady =>
    s.att.toNat < s.limit.toNat ∧ (if s.ph then s.opk.reads = true ∧ s.param.repoll = true else s.opk.sends = true)
  | .pollWait =>
    s.att.toNat < s.limit.toNat ∧ (if s.ph then s.opk.reads = true ∧ s.param.repoll = true else s.opk.sends = true)
  | .verifyAck => s.opk.sends = true ∧ s.idx.toNat < ackrSize ∧ s.listed ackrBase s.idx.toNat
  | .readHdr =>
    s.opk.reads = true ∧ s.idx.toNat < 5 ∧ s.listed rxfBase s.idx.toNat ∧ s.rxn = s.idx
  | .readBody =>
    s.opk.reads = true ∧ 5 ≤ s.idx.toNat ∧ s.rxn = s.idx ∧ s.listed rxfBase s.idx.toNat ∧
      headerGood (s.readBytes rxfBase 5) = true ∧ s.idx.toNat < (s.readByte (rxfBase + 3)).toNat + 7

/-- What holds at reset and what every step of every agent keeps. -/
structure Inv (s : State) : Prop where
  /-- The buffers keep their canonical form. -/
  memory : Memory.wf s.mem
  /-- BUSY exactly in the running states of the engine (10_state.md R24). -/
  busy : s.status.busy = s.status.fsm.running
  /-- A bus operation is in progress exactly while BUSY (10_state.md R43, 60_exceptions.md R226). -/
  opk : s.status.busy = decide (s.opk ≠ .none)
  /-- DONE exactly in the two resting states of an ended operation (10_state.md R25, R29). -/
  done : s.status.done = decide (s.status.fsm = .success ∨ s.status.fsm = .failed)
  /-- OK exactly in SUCCESS (10_state.md R26). -/
  ok : s.status.ok = decide (s.status.fsm = .success)
  /-- An error code exactly in FAILED (10_state.md R27). -/
  err : s.status.err ≠ .noError ↔ s.status.fsm = .failed
  /-- Chip-select from START's step to the end (10_state.md R28). -/
  cs : s.status.cs = (s.status.busy && decide (s.status.fsm ≠ .start))
  /-- The response fields are 0 but after Success (10_state.md R31, 40_codec.md R129). -/
  response : s.status.fsm ≠ .success → s.status.respCmd = 0 ∧ s.status.respLen = 0
  /-- ATT never exceeds LIMIT (10_state.md R35). -/
  attempts : s.att.toNat ≤ s.limit.toNat
  /-- While an operation runs there is at least one attempt (41_handshake.md R152). -/
  bound : s.status.busy = true → 0 < s.limit.toNat
  /-- The trace is bracketed, and STATUS.CS is the line it leaves (10_state.md R28, 41_handshake.md R164). -/
  line : bracket s.trace = some s.status.cs
  /-- What the engine's state keeps of the operation. -/
  stage : s.stage

end Sys2Proof.Machine
end

