-- ==== Sys2Proof/Certificates/Slice0/Obligations.lean ====
section
/-! DEFINITION. The statements for the provers. Each docstring names the rules of spec/ it formalises, or says that it is a
choice of the model and names the log entry. -/

section

open Sys2Proof Sys2Proof.Machine

/-! ### Encoding -/

/-- The encoded examples of 30_encoding.md R112, decoded and encoded. -/
def Obligations.EncodedExamples : Prop :=
  (decode (.opWord 0x00000201#32) = .ok (.fceEncode 0x02#8 0#8) ∧
      encode (.fceEncode 0x02#8 0#8) = .opWord 0x00000201#32) ∧
    (decode (.opWord 0x00000204#32) = .ok (.fceSendAck 0x02#8 0#8) ∧
      encode (.fceSendAck 0x02#8 0#8) = .opWord 0x00000204#32) ∧
    (decode (.opWord 0x00000205#32) = .ok (.fceReadResp 0x02#8 0#8) ∧
      encode (.fceReadResp 0x02#8 0#8) = .opWord 0x00000205#32) ∧
    (decode (.opWord 0x00000206#32) = .ok (.fceExchange 0x02#8 0#8) ∧
      encode (.fceExchange 0x02#8 0#8) = .opWord 0x00000206#32) ∧
    (decode (.opWord 0x00031406#32) = .ok (.fceExchange 0x14#8 3#8) ∧
      encode (.fceExchange 0x14#8 3#8) = .opWord 0x00031406#32) ∧
    (decode (.opWord 0x00024A06#32) = .ok (.fceExchange 0x4A#8 2#8) ∧
      encode (.fceExchange 0x4A#8 2#8) = .opWord 0x00024A06#32) ∧
    (decode (.opWord 0x00000012#32) = .ok (.fceDecodeLoop 0#8 0#8) ∧
      encode (.fceDecodeLoop 0#8 0#8) = .opWord 0x00000012#32)

/-- The command codes of 45_command_layer.md R193 and 30_encoding.md R106, decoded and encoded. -/
def Obligations.CommandCodeBytes : Prop :=
  (decode (.cmdByte 0x02#8) = .ok .cmdFirmwareVersion ∧ encode .cmdFirmwareVersion = .cmdByte 0x02#8) ∧
    (decode (.cmdByte 0x04#8) = .ok .cmdGeneralStatus ∧ encode .cmdGeneralStatus = .cmdByte 0x04#8) ∧
    (decode (.cmdByte 0x14#8) = .ok .cmdSamConfiguration ∧ encode .cmdSamConfiguration = .cmdByte 0x14#8) ∧
    (decode (.cmdByte 0x32#8) = .ok .cmdRfConfiguration ∧ encode .cmdRfConfiguration = .cmdByte 0x32#8) ∧
    (decode (.cmdByte 0x4A#8) = .ok .cmdInListPassiveTarget ∧ encode .cmdInListPassiveTarget = .cmdByte 0x4A#8) ∧
    (decode (.cmdByte 0x40#8) = .ok .cmdDataExchange ∧ encode .cmdDataExchange = .cmdByte 0x40#8)

/-- Decoding an instruction's encoding gives the instruction back, every operand at every value (30_encoding.md R90, R92;
the don't-care fields too, log 28). -/
def Obligations.DecodeOfEncode : Prop := ∀ i : Instr, decode (encode i) = .ok i

/-- Every operation word and command code that decodes is the encoding of what it decodes to: no bit is dropped (30_encoding.md
R90, R92, R108). So no two words are one instruction, two DECODE words that differ in their don't-care fields neither (R94
makes them one operation): that the fields are kept is the model's choice, log 28. -/
def Obligations.EncodeOfDecode : Prop := ∀ (e : Encoded) (i : Instr), decode e = .ok i → encode i = e

/-- 30_encoding.md R108: exactly the listed words decode to nothing, and a host write of one to OP on a quiet block ends with
ILLEGAL_OP and has no effect on the bus or the buffers. -/
def Obligations.IllegalWordsRefused : Prop :=
  ∀ w : Word,
    (illegalWord w ↔ ∃ e, decode (.opWord w) = .reject e) ∧
      ∀ s : State, illegalWord w → s.quiet →
        windowWrite .w32 0x000 (w.setWidth 64) s = .next (s.ended w .illegalOp 0 0) ∧
          (s.ended w .illegalOp 0 0).trace = s.trace ∧ (s.ended w .illegalOp 0 0).mem = s.mem

/-! ### A step -/

/-- The word placed by `withFetchWord` is what the next step runs: the step is `exec` of the decoded instruction, at the state
with no call in progress and the tick advanced (the model's own arrangement, logs 1, 7, 27). -/
def Obligations.FetchedInstructionRuns : Prop :=
  ∀ (s : State) (nbits w : Nat) (i : Instr), decodeTableWord nbits w = some i →
    step (s.withFetchWord nbits w) = exec i { s with client := { s.client with call := none }, tick := s.tick + 1 }

/-- A step is one turn of one agent (00_scope.md R6, 30_encoding.md R91): the engine's transition, the reset, or the host's: the
next phase of the call in progress, else the next operation of its program, else nothing. An access is a read or a write at
its window offset; a write of a legal word to OP, or a listed command code, is `exec` of the decoded instruction (the turns,
the tick, the program and the call are the model's own, logs 1, 2, 7, 15, 29). -/
def Obligations.StepRunsOneAgent : Prop :=
  ∀ s u : State, u = { s with turns := s.turns.tail, tick := s.tick + 1 } →
    (s.nextTurn = .engine → step s = engineStep u) ∧
      (s.nextTurn = .reset → step s = .next u.resetBlock) ∧
      (s.nextTurn = .host → ∀ c, s.client.call = some c → step s = callStep c u) ∧
      (s.nextTurn = .host → s.client.call = none → s.client.program = [] → step s = .next u) ∧
      (∀ (rest : List HostOp) (v : State), s.nextTurn = .host → s.client.call = none →
        v = { u with client := { s.client with program := rest } } →
        (∀ o, s.client.program = o :: rest → step s = hostOp o v) ∧
          (∀ a, s.client.program = .access a :: rest → step s = hostAccess a v) ∧
          (∀ w off, off < 4096 → s.client.program = .access (.read w (s.param.fceBase + off)) :: rest →
            step s = .next
              { v with client := { v.client with reads := s.client.reads ++ [windowRead w off v] } }) ∧
          (∀ w off d, off < 4096 → s.client.program = .access (.write w (s.param.fceBase + off) d) :: rest →
            step s = windowWrite w off d v) ∧
          (∀ d i, s.client.program = .access (.write .w32 s.param.fceBase d) :: rest →
            decode (.opWord (d.setWidth 32)) = .ok i → step s = exec i v) ∧
          (∀ c i, s.client.program = .command c :: rest → decode (.cmdByte c) = .ok i → step s = exec i v))

/-! ### The codec -/

/-- 40_codec.md R120: the two checksums, the negation of 0, and the zero sums. -/
def Obligations.ChecksumLaws : Prop :=
  (∀ len : Byte, (lcs len).toNat = (256 - len.toNat) % 256) ∧
    (∀ s : List Byte, (dcs s).toNat = (256 - (s.map BitVec.toNat).sum % 256) % 256) ∧
    neg8 0 = 0 ∧
    (∀ len : Byte, (len.toNat + (lcs len).toNat) % 256 = 0) ∧
    (∀ s : List Byte, ((s ++ [dcs s]).map BitVec.toNat).sum % 256 = 0)

/-- 40_codec.md R121: the encoder's sequence byte by byte, its length, and what an operation that uses it leaves in TXF and
TXN. -/
def Obligations.FrameLayout : Prop :=
  (∀ (c : Byte) (d : List Byte), d.length ≤ 253 →
    (encodeFrame c d).length = d.length + 9 ∧
      (encodeFrame c d)[0]? = some 0x00#8 ∧ (encodeFrame c d)[1]? = some 0x00#8 ∧ (encodeFrame c d)[2]? = some 0xFF#8 ∧
      ((encodeFrame c d)[3]?).map BitVec.toNat = some (d.length + 2) ∧
      ((encodeFrame c d)[4]?).map BitVec.toNat = some (256 - (d.length + 2)) ∧
      (encodeFrame c d)[5]? = some 0xD4#8 ∧ (encodeFrame c d)[6]? = some c ∧
      (∀ i, i < d.length → (encodeFrame c d)[7 + i]? = d[i]?) ∧
      ((encodeFrame c d)[7 + d.length]?).map BitVec.toNat =
        some ((256 - (0xD4 + c.toNat + (d.map BitVec.toNat).sum) % 256) % 256) ∧
      (encodeFrame c d)[8 + d.length]? = some 0x00#8) ∧
    (∀ (s : State) (c n : Byte), n.toNat ≤ 253 → framed s (s.encodeInto c n) c n)

/-- 40_codec.md R123: DecodeFrame makes the spec's checks, by byte index and in the spec's order, and examines no byte from
index LEN + 6 on. -/
def Obligations.DecodeChecksInOrder : Prop :=
  ∀ (r : List Byte) (t : Byte), decodeFrame r t = decodeInOrder r t ∧
    ∀ tail : List Byte, (r.getD 3 0).toNat + 6 ≤ r.length →
      decodeFrame (r.take ((r.getD 3 0).toNat + 6) ++ tail) t = decodeFrame r t

/-- 40_codec.md R126: decoding an encoded frame with the loopback expectation gives the command and the payload back; with the
chip-to-host expectation the same frame is FRAMING. -/
def Obligations.RoundTrip : Prop :=
  ∀ (c : Byte) (d : List Byte), d.length ≤ 253 →
    decodeFrame (encodeFrame c d) 0xD4#8 = .ok c (BitVec.ofNat 8 d.length) ∧
      ((encodeFrame c d).drop 7).take d.length = d ∧
      decodeFrame (encodeFrame c d) 0xD5#8 = .err .framing

/-- 40_codec.md R127: any one byte of a valid frame replaced by a different value. -/
def Obligations.SingleByteCorruption : Prop :=
  ∀ (f : List Byte) (t c n : Byte), decodeFrame f t = .ok c n → f.length = n.toNat + 9 →
    ∀ (i : Nat) (b : Byte), i < f.length → f[i]? ≠ some b →
      decodeFrame (f.set i b) t =
        if i ≤ 5 then .err .framing else if i ≤ n.toNat + 7 then .err .checksum else .ok c n

/-- 40_codec.md R128: nothing from index LEN + 6 on is examined, and a frame cut after DCS decodes. -/
def Obligations.PostambleNotExamined : Prop :=
  ∀ (f : List Byte) (t c n : Byte), decodeFrame f t = .ok c n →
    ∀ tail : List Byte, decodeFrame (f.take (n.toNat + 8) ++ tail) t = .ok c n

/-- 40_codec.md R131: the ACK test is exact. -/
def Obligations.AckExact : Prop :=
  ∀ b : List Byte, ackMatch b = true ↔
    b.length = 6 ∧ b[0]? = some 0x00#8 ∧ b[1]? = some 0x00#8 ∧ b[2]? = some 0xFF#8 ∧ b[3]? = some 0x00#8 ∧
      b[4]? = some 0xFF#8 ∧ b[5]? = some 0x00#8

/-! ### The operations that touch no bus -/

/-- 40_codec.md R122: ENCODE on a quiet block, refused or performed. -/
def Obligations.EncodeResult : Prop :=
  ∀ (s : State) (cmd plen : Byte), s.quiet →
    (s.param.maxPlen.val < plen.toNat →
      exec (.fceEncode cmd plen) s = .next (s.ended (wordOf 0x01 cmd plen) .invalidArg 0 0)) ∧
      (plen.toNat ≤ s.param.maxPlen.val →
        ∃ t, exec (.fceEncode cmd plen) s = .next t ∧ framed s t cmd plen ∧
          t = { s.ended (wordOf 0x01 cmd plen) .noError 0 0 with mem := t.mem, txn := t.txn })

/-- 40_codec.md R125: DECODE and DECODE with LOOP on a quiet block. -/
def Obligations.DecodeResult : Prop :=
  ∀ (s : State) (cmd plen : Byte), s.quiet →
    exec (.fceDecode cmd plen) s = .next (s.decoded (wordOf 0x02 cmd plen) 0xD5#8) ∧
      exec (.fceDecodeLoop cmd plen) s = .next (s.decoded (wordOf 0x12 cmd plen) 0xD4#8)

/-- 40_codec.md R132: CHECK_ACK on a quiet block. -/
def Obligations.CheckAckResult : Prop :=
  ∀ (s : State) (cmd plen : Byte), s.quiet →
    exec (.fceCheckAck cmd plen) s = .next (s.ended (wordOf 0x03 cmd plen) s.ackOutcome 0 0)

/-! ### Acceptance of the bus operations -/

/-- What acceptance of the three bus operations does on a quiet block (30_encoding.md R91, 41_handshake.md R165 to R167): the
size check, the frame, the start. -/
def Obligations.BusOperationsStart : Prop :=
  ∀ (s : State) (cmd plen : Byte), s.quiet →
    (∀ i k low, (i, k, low) ∈ [(Instr.fceSendAck cmd plen, OpKind.sendCheckAck, 0x04),
        (Instr.fceExchange cmd plen, OpKind.exchange, 0x06)] →
      (s.param.maxPlen.val < plen.toNat → exec i s = .next (s.ended (wordOf low cmd plen) .invalidArg 0 0)) ∧
        (plen.toNat ≤ s.param.maxPlen.val →
          ∃ t, exec i s = .next t ∧ framed s t cmd plen ∧
            t = { s.started (wordOf low cmd plen) k cmd with mem := t.mem, txn := t.txn })) ∧
      exec (.fceReadResp cmd plen) s = .next (s.started (wordOf 0x05 cmd plen) .readResponse cmd)

/-- 60_exceptions.md R222: an INVALID_ARG, for whichever reason, is raised at acceptance: no chip-select, no bus event, TXF and
TXN and every other buffer as they were. -/
def Obligations.InvalidArgTouchesNothing : Prop :=
  ∀ (i : Instr) (s t : State), isOperation i = true → s.quiet → exec i s = .next t → t.status.err = .invalidArg →
    t.status.fsm = .failed ∧ t.status.busy = false ∧ t.status.cs = false ∧ t.trace = s.trace ∧ t.txn = s.txn ∧
      t.mem = s.mem

/-! ### Frames -/

/-- DECODE, DECODE with LOOP, CHECK_ACK and the acceptance of READ_RESPONSE store no byte and write no register but OP, STATUS
and POLL and the hidden OPK, CMDL, PH and IDX (40_codec.md R125, R132; 41_handshake.md R166; 30_encoding.md R91). -/
def Obligations.FrameStoringNothing : Prop :=
  ∀ (i : Instr) (cmd plen : Byte) (s t : State),
    i ∈ [Instr.fceDecode cmd plen, Instr.fceDecodeLoop cmd plen, Instr.fceCheckAck cmd plen, Instr.fceReadResp cmd plen] →
      (s.status.cs = true → s.status.busy = true) → exec i s = .next t →
        (∀ off, t.readByte off = s.readByte off) ∧ t.mem = s.mem ∧ t.tmo = s.tmo ∧ t.rxn = s.rxn ∧ t.txn = s.txn ∧
          t.statb = s.statb ∧ t.param = s.param ∧ t.trace = s.trace ∧ t.status.cs = s.status.cs ∧ t.client = s.client ∧
          t.transport = s.transport ∧ t.chip = s.chip ∧ t.turns = s.turns ∧ t.tick = s.tick ∧
          (i ≠ .fceReadResp cmd plen →
            t.limit = s.limit ∧ t.cmdl = s.cmdl ∧ t.ph = s.ph ∧ t.idx = s.idx ∧ t.status.busy = s.status.busy)

/-- ENCODE and the acceptance of SEND_CHECK_ACK and EXCHANGE store the frame's bytes at TXF and no other byte, none when the
word is rejected or refused, and write no register but OP, STATUS, TXN and POLL and the hidden OPK, CMDL, PH and IDX
(40_codec.md R121, R122; 30_encoding.md R91). -/
def Obligations.FrameStoringTxf : Prop :=
  ∀ (i : Instr) (cmd plen : Byte) (s t : State),
    i ∈ [Instr.fceEncode cmd plen, Instr.fceSendAck cmd plen, Instr.fceExchange cmd plen] →
      (s.status.cs = true → s.status.busy = true) → exec i s = .next t →
        (∀ off, ¬ (s.status.busy = false ∧ plen.toNat ≤ s.param.maxPlen.val ∧
            txfBase ≤ off ∧ off < txfBase + (plen.toNat + 9)) → t.readByte off = s.readByte off) ∧
          t.tmo = s.tmo ∧ t.rxn = s.rxn ∧ t.statb = s.statb ∧ t.param = s.param ∧ t.trace = s.trace ∧
          t.status.cs = s.status.cs ∧ t.client = s.client ∧ t.transport = s.transport ∧ t.chip = s.chip ∧
          t.turns = s.turns ∧ t.tick = s.tick ∧
          (i = .fceEncode cmd plen →
            t.limit = s.limit ∧ t.cmdl = s.cmdl ∧ t.ph = s.ph ∧ t.idx = s.idx ∧ t.status.busy = s.status.busy)

/-- Issuing a command code changes nothing of the block and, of the host, only the call, its result and its block
(45_command_layer.md, "no state of the block holds them"; log 15). -/
def Obligations.FrameCommandCodes : Prop :=
  ∀ (i : Instr) (s t : State), isOperation i = false → exec i s = .next t →
    sameBlock s t ∧ (∀ off, t.readByte off = s.readByte off) ∧ t.transport = s.transport ∧ t.chip = s.chip ∧
      t.turns = s.turns ∧ t.tick = s.tick ∧ t.client.program = s.client.program ∧ t.client.reads = s.client.reads ∧
      t.client.args = s.client.args ∧ t.client.backup = s.client.backup

/-! ### The register window -/

/-- 20_memory.md R75: the busy rule, at every location it names. -/
def Obligations.BusyRule : Prop :=
  ∀ (s : State) (v : HostData),
    (s.status.busy = true →
      windowWrite .w32 0x000 v s = .next s.rejected ∧ windowWrite .w32 0x008 v s = .next s.rejected ∧
        windowWrite .w32 0x00C v s = .next s.rejected ∧
        (∀ i, i ≤ 252 → windowWrite .w8 (0x100 + i) v s = .next s.rejected) ∧
        (∀ i, i ≤ 261 → windowWrite .w8 (0x400 + i) v s = .next s.rejected)) ∧
      (s.status.busy = false →
        (∀ i, decode (.opWord (v.setWidth 32)) = .ok i → windowWrite .w32 0x000 v s = exec i s) ∧
          (∀ e, decode (.opWord (v.setWidth 32)) = .reject e →
            windowWrite .w32 0x000 v s = .next ((s.accept (v.setWidth 32)).fail .illegalOp)) ∧
          windowWrite .w32 0x008 v s = .next { s with tmo := v.setWidth 16 } ∧
          windowWrite .w32 0x00C v s = .next { s with rxn := v.setWidth 9 } ∧
          (∀ i, i ≤ 252 → windowWrite .w8 (0x100 + i) v s = .next (s.writeByte (0x100 + i) (v.setWidth 8))) ∧
          (∀ i, i ≤ 261 → windowWrite .w8 (0x400 + i) v s = .next (s.writeByte (0x400 + i) (v.setWidth 8)))) ∧
      (∀ w off, off ∈ [0x004, 0x010, 0x014, 0x018, 0x01C] → windowWrite w off v s = .next s) ∧
      (∀ w i, i ≤ 261 → windowWrite w (0x200 + i) v s = .next s) ∧
      (∀ w i, i ≤ 5 → windowWrite w (0x600 + i) v s = .next s)

/-- 20_memory.md R72: an unsupported access. A write changes nothing; a read changes nothing of the block and returns the free
draw `Config.freeData`, of which nothing is known (log 5). -/
def Obligations.UnsupportedAccess : Prop :=
  ∀ (s : State) (w : Width) (off : Nat) (v : HostData),
    (off < 0x020 ∧ (w ≠ .w32 ∨ off % 4 ≠ 0)) ∨ (bufferOffset off ∧ w ≠ .w8) →
      windowWrite w off v s = .next s ∧ windowRead w off s = w.cut (Config.freeData s.tick) ∧
        ∀ (addr : Nat) (t : State), s.param.offsetOf addr = some off → hostAccess (.read w addr) s = .next t → sameBlock s t

/-- 10_state.md R42, reserved offsets: writes are ignored and reads return zero, at any width. -/
def Obligations.ReservedOffsets : Prop :=
  ∀ (s : State) (w : Width) (off : Nat) (v : HostData), reservedOffset off →
    windowWrite w off v s = .next s ∧ windowRead w off s = 0

/-- 20_memory.md R74: a read of any offset at any width changes no state of the block; the host gains one value. -/
def Obligations.ReadsChangeNothing : Prop :=
  ∀ (s : State) (w : Width) (off : Nat), off < 4096 →
    ∃ t, hostAccess (.read w (s.param.fceBase + off)) s = .next t ∧ sameBlock s t ∧
      t.client.reads = s.client.reads ++ [windowRead w off s]

/-- 20_memory.md R85: every access inside the window succeeds. -/
def Obligations.PermittedAccessSucceeds : Prop :=
  ∀ (s : State) (w : Width) (off : Nat) (v : HostData), off < 4096 →
    (∃ t, hostAccess (.read w (s.param.fceBase + off)) s = .next t) ∧
      (∃ t, hostAccess (.write w (s.param.fceBase + off) v) s = .next t)

/-- The two stops of the model outside the engine: an access outside the window (log 11), and a command-layer call while one
runs (20_memory.md R86, 93_implementation_defined.md U20 "refuse", log 20). -/
def Obligations.NamedStops : Prop :=
  (∀ (s : State) (w : Width) (addr : Nat) (v : HostData),
    addr < s.param.fceBase ∨ s.param.fceBase + 4096 ≤ addr →
      hostAccess (.read w addr) s = .fault .outsideWindow ∧ hostAccess (.write w addr v) s = .fault .outsideWindow) ∧
    (∀ (i : Instr) (s : State), isOperation i = false → s.client.call.isSome = true →
      exec i s = .refused .concurrentCall)

/-- STATUS as the host reads it at 0x004, with the codes of ERR and FSM (10_state.md R23, R27, R29). -/
def Obligations.StatusWord : Prop :=
  (∀ s : State,
    (windowRead .w32 0x004 s).toNat =
      s.status.busy.toNat + 2 * s.status.done.toNat + 4 * s.status.ok.toNat + 8 * s.status.err.code.toNat +
        64 * s.status.cs.toNat + 128 * s.status.rej.toNat + 256 * s.status.fsm.code.toNat +
        65536 * s.status.respCmd.toNat + 16777216 * s.status.respLen.toNat) ∧
    [Err.noError, .framing, .checksum, .ackMismatch, .timeout, .invalidArg, .illegalOp].map Err.code =
      [0, 1, 2, 3, 4, 5, 6] ∧
    [Fsm.idle, .start, .sending, .awaitReady, .pollWait, .verifyAck, .readHdr, .readBody, .success, .failed].map Fsm.code =
      [0, 1, 2, 3, 4, 5, 6, 7, 8, 9]

/-- The other registers as the host reads them at their offsets, reserved bits 0 but for OP's (10_state.md R22, R32 to R37,
R42). -/
def Obligations.RegisterWords : Prop :=
  ∀ s : State,
    windowRead .w32 0x000 s = s.op.setWidth 64 ∧ (windowRead .w32 0x008 s).toNat = s.tmo.toNat ∧
      (windowRead .w32 0x00C s).toNat = s.rxn.toNat ∧ (windowRead .w32 0x010 s).toNat = s.txn.toNat ∧
      (windowRead .w32 0x014 s).toNat = s.att.toNat + 65536 * s.limit.toNat ∧
      (windowRead .w32 0x018 s).toNat = s.statb.toNat ∧
      (windowRead .w32 0x01C s).toNat =
        s.param.maxPlen.val + 256 * s.param.repoll.toNat + 512 * s.param.xferPrefix.bit.toNat +
          65536 * s.param.pollDelayMs.toNat

/-! ### The engine's transitions -/

/-- 41_handshake.md R153; RXN equals IDX, 0, on the entry to READ_HDR (10_state.md R43, log 13). -/
def Obligations.StartStep : Prop :=
  ∀ s : State, s.status.busy = true → s.status.fsm = .start →
    engineStep s = .next
      (if s.opk = .sendCheckAck ∨ s.opk = .exchange then
        { s with trace := s.trace ++ [.csAssert], idx := 0, status := { s.status with cs := true, fsm := .sending } }
       else if s.param.repoll then
        { s with
          trace := s.trace ++ [.csAssert], idx := 0, ph := true, att := 0
          status := { s.status with cs := true, fsm := .awaitReady } }
       else
        { s with
          trace := s.trace ++ [.csAssert], idx := 0, rxn := 0, status := { s.status with cs := true, fsm := .readHdr } })

/-- 41_handshake.md R154: a byte goes out in index order, the last one begins the poll; TXN is at least 9 in every state that
keeps the invariant. -/
def Obligations.SendingStep : Prop :=
  (∀ s : State, s.status.busy = true → s.status.fsm = .sending → s.idx.toNat < 262 →
    engineStep s = .next
      (if s.idx + 1 = s.txn then
        { s with
          trace := s.trace ++ [.write (s.readByte (0x200 + s.idx.toNat))], idx := s.idx + 1, ph := false, att := 0
          status := { s.status with fsm := .awaitReady } }
       else { s with trace := s.trace ++ [.write (s.readByte (0x200 + s.idx.toNat))], idx := s.idx + 1 })) ∧
    (∀ s : State, Machine.Inv s → s.status.fsm = .sending → 9 ≤ s.txn.toNat)

/-- 41_handshake.md R157, with the ready test of R155; RXN equals IDX, 0, on the entry to READ_HDR (10_state.md R43, log 13). -/
def Obligations.AwaitReadyStep : Prop :=
  ∀ (s s1 : State) (b : Byte), s.status.busy = true → s.status.fsm = .awaitReady → b = s.chipAnswer .status →
    s1 = { s with trace := s.trace ++ [.read .status b], chip := s.chip.tail, statb := b, att := s.att + 1 } →
      engineStep s = .next
        (if b.toNat % 2 = 1 then
          (if s.ph then { s1 with idx := 0, rxn := 0, status := { s.status with fsm := .readHdr } }
           else { s1 with idx := 0, status := { s.status with fsm := .verifyAck } })
         else if s1.att = s1.limit then s1.fail .timeout
         else { s1 with status := { s.status with fsm := .pollWait } })

/-- The step of 41_handshake.md R158. -/
def Obligations.PollWaitStep : Prop :=
  ∀ s : State, s.status.busy = true → s.status.fsm = .pollWait →
    engineStep s = .next { s with trace := s.trace ++ [.delay], status := { s.status with fsm := .awaitReady } }

/-- 41_handshake.md R159 and R160; RXN equals IDX, 0, on the entry to READ_HDR (10_state.md R43, log 13). -/
def Obligations.VerifyAckStep : Prop :=
  ∀ (s s1 : State) (b : Byte), s.status.busy = true → s.status.fsm = .verifyAck → s.idx.toNat < 6 →
    b = s.chipAnswer .data →
    s1 = { s with
      trace := s.trace ++ [.read .data b], chip := s.chip.tail, mem := Memory.set (0x600 + s.idx.toNat) b s.mem,
      idx := s.idx + 1 } →
      engineStep s = .next
        (if s1.idx = 6 then
          if ackMatch (s1.readBytes 0x600 6) = false then s1.fail .ackMismatch
          else if s.opk = .sendCheckAck then s1.succeed
          else if s.param.repoll then
            { s1 with idx := 0, ph := true, att := 0, status := { s.status with fsm := .awaitReady } }
          else { s1 with idx := 0, rxn := 0, status := { s.status with fsm := .readHdr } }
         else s1)

/-- 41_handshake.md R161; after a header failure the engine does nothing more. -/
def Obligations.HeaderStep : Prop :=
  ∀ (s s1 : State) (b : Byte), s.status.busy = true → s.status.fsm = .readHdr → s.idx.toNat < 262 →
    b = s.chipAnswer .data →
    s1 = { s with
      trace := s.trace ++ [.read .data b], chip := s.chip.tail, mem := Memory.set (0x400 + s.idx.toNat) b s.mem,
      idx := s.idx + 1, rxn := s.idx + 1 } →
      engineStep s = .next
        (if s1.idx = 5 then
          if s1.readByte 0x400 ≠ 0x00#8 ∨ s1.readByte 0x401 ≠ 0x00#8 ∨ s1.readByte 0x402 ≠ 0xFF#8 then s1.fail .framing
          else if ((s1.readByte 0x403).toNat + (s1.readByte 0x404).toNat) % 256 ≠ 0 then s1.fail .framing
          else if (s1.readByte 0x403).toNat < 2 then s1.fail .framing
          else { s1 with status := { s.status with fsm := .readBody } }
         else s1) ∧
        engineStep (s1.fail .framing) = .next (s1.fail .framing)

/-- 41_handshake.md R162 and R163. -/
def Obligations.BodyStep : Prop :=
  ∀ (s s1 : State) (b : Byte), s.status.busy = true → s.status.fsm = .readBody → s.idx.toNat < 262 →
    b = s.chipAnswer .data →
    s1 = { s with
      trace := s.trace ++ [.read .data b], chip := s.chip.tail, mem := Memory.set (0x400 + s.idx.toNat) b s.mem,
      idx := s.idx + 1, rxn := s.idx + 1 } →
      (s1.idx.toNat ≠ (s1.readByte 0x403).toNat + 7 → engineStep s = .next s1) ∧
        (s1.idx.toNat = (s1.readByte 0x403).toNat + 7 →
          (∀ e, decodeFrame (s1.readBytes 0x400 s1.rxn.toNat) 0xD5#8 = .err e → engineStep s = .next (s1.fail e)) ∧
            (∀ c n, decodeFrame (s1.readBytes 0x400 s1.rxn.toNat) 0xD5#8 = .ok c n →
              (c.toNat ≠ (s.cmdl.toNat + 1) % 256 → engineStep s = .next (s1.fail .framing)) ∧
                (c.toNat = (s.cmdl.toNat + 1) % 256 →
                  engineStep s = .next
                    ({ s1 with status := { s.status with respCmd := c, respLen := n } } : State).succeed)))

/-! ### Properties of the engine -/

/-- 60_exceptions.md R226: what Finish writes, and that an operation ends through it alone, in an engine step after the step's
own transfer, or at acceptance. -/
def Obligations.FinishIsTheOnlyEnd : Prop :=
  (∀ (s : State) (ok : Bool) (e : Err),
    s.finish ok e =
      { s with
        trace := if s.status.cs then s.trace ++ [.csDeassert] else s.trace
        opk := .none
        status := { s.status with
          cs := false, ok := ok, err := if ok then .noError else e, fsm := if ok then .success else .failed,
          busy := false, done := true } }) ∧
    (∀ s t : State, engineStep s = .next t → s.status.busy = true → t.status.busy = false →
      ∃ (u : State) (e : BusEvent) (ok : Bool) (r : Err),
        t = u.finish ok r ∧ u.trace = s.trace ++ [e] ∧ isTransfer e = true) ∧
    (∀ (i : Instr) (s t : State), isOperation i = true → exec i s = .next t → s.status.busy = false →
      t.status.busy = false → ∃ (u : State) (ok : Bool) (r : Err), t = u.finish ok r ∧ u.trace = s.trace) ∧
    (∀ (v : Word) (s t : State), illegalOp v s = .next t → s.status.busy = false →
      ∃ u : State, t = u.finish false .illegalOp ∧ u.trace = s.trace)

/-- Of 41_handshake.md R150: quiescent while BUSY is 0; else at most one transfer or delay and at most one chip-select change
in a step. -/
def Obligations.EngineStepEvents : Prop :=
  ∀ s : State,
    (s.status.busy = false → engineStep s = .next s) ∧
      (∀ t, engineStep s = .next t →
        ∃ es, t.trace = s.trace ++ es ∧ (es.filter (fun e => isTransfer e)).length ≤ 1 ∧
          (es.filter (fun e => !isTransfer e)).length ≤ 1)

/-- What an engine step leaves alone (10_state.md R38, R39, R41; 20_memory.md R80, R81; 41_handshake.md R165, R166): OP, TMO,
TXN, LIMIT, CMDL, PARAM, REJ, PBUF and TXF always; ACKR but in VERIFY_ACK; RXF but in READ_HDR and READ_BODY; RXN there too,
but for the step that enters READ_HDR, which leaves it 0 (R43, log 13); STATB but in AWAIT_READY. -/
def Obligations.EngineFrame : Prop :=
  ∀ s t : State, engineStep s = .next t →
    t.op = s.op ∧ t.tmo = s.tmo ∧ t.txn = s.txn ∧ t.limit = s.limit ∧ t.cmdl = s.cmdl ∧ t.param = s.param ∧
      t.status.rej = s.status.rej ∧ t.client = s.client ∧ t.transport = s.transport ∧ t.turns = s.turns ∧ t.tick = s.tick ∧
      (∀ off, ¬ (0x400 ≤ off ∧ off ≤ 0x505) → ¬ (0x600 ≤ off ∧ off ≤ 0x605) → t.readByte off = s.readByte off) ∧
      (s.status.fsm ≠ .verifyAck → ∀ off, 0x600 ≤ off → t.readByte off = s.readByte off) ∧
      (s.status.fsm ≠ .readHdr → s.status.fsm ≠ .readBody →
        (t.rxn = if t.status.fsm = .readHdr then 0 else s.rxn) ∧ ∀ off, off ≤ 0x505 → t.readByte off = s.readByte off) ∧
      (s.status.fsm ≠ .awaitReady → t.statb = s.statb)

/-- In a state that keeps the invariant the engine never stops: the fault `engineState` (log 12) is of states no run reaches. -/
def Obligations.EngineNeverStops : Prop := ∀ s : State, Machine.Inv s → ∃ t, engineStep s = .next t

/-- The flags of STATUS agree in every state that keeps the invariant (10_state.md R24, R25, R26, R28, R31), and RXN equals the
hidden IDX in READ_HDR and READ_BODY (R43). -/
def Obligations.FlagsAgree : Prop :=
  ∀ s : State, Machine.Inv s →
    (s.status.busy = true ↔
      s.status.fsm ∈ [Fsm.start, .sending, .awaitReady, .pollWait, .verifyAck, .readHdr, .readBody]) ∧
      ¬ (s.status.done = true ∧ s.status.busy = true) ∧
      (s.status.ok = true → s.status.err = .noError ∧ s.status.done = true) ∧
      (s.status.cs = true → s.status.busy = true) ∧
      (s.status.ok = false → s.status.respCmd = 0 ∧ s.status.respLen = 0) ∧
      (s.status.fsm = .readHdr ∨ s.status.fsm = .readBody → s.rxn = s.idx)

/-- The invariant holds after reset, for every instance. -/
def Obligations.InvAtReset : Prop := (∀ p : Param, Machine.Inv (State.resetOf p)) ∧ Machine.Inv State.reset

/-- Every step of every agent keeps the invariant. -/
def Obligations.StepKeepsInv : Prop := ∀ s t : State, Machine.Inv s → step s = .next t → Machine.Inv t

/-- 41_handshake.md R170's bound: from every state that keeps the invariant with an operation running, the engine ends it,
with DONE, within the bound's number of steps. -/
def Obligations.EngineTerminates : Prop :=
  ∀ s : State, Machine.Inv s → s.status.busy = true →
    ∃ (n : Nat) (t : State), n ≤ stepBound ∧ engineRun n s = .next t ∧ t.status.busy = false ∧ t.status.done = true

/-- 41_handshake.md R168: a phase in which the chip is ready at the `k`-th read, `k ≤ LIMIT`, takes `k` reads and `k − 1`
delays; one in which LIMIT reads find it not ready takes LIMIT reads and `LIMIT − 1` delays and ends in TIMEOUT. The chip's
answers stand in the model's own list `chip` (log 3); RXN is 0 on the entry to READ_HDR (log 13). -/
def Obligations.PollPhase : Prop :=
  ∀ (s : State) (waits : List Byte), s.status.busy = true → s.status.fsm = .awaitReady → s.att = 0 →
    0 < s.limit.toNat → (∀ b ∈ waits, b.toNat % 2 = 0) →
    (∀ (r : Byte) (rest : List Byte), r.toNat % 2 = 1 → waits.length + 1 ≤ s.limit.toNat → s.chip = waits ++ r :: rest →
      engineRun (2 * waits.length + 1) s = .next
        { s with
          trace := s.trace ++ pollEvents (waits ++ [r]), chip := rest, statb := r
          att := BitVec.ofNat 16 (waits.length + 1), idx := 0, rxn := if s.ph then 0 else s.rxn
          status := { s.status with fsm := if s.ph then .readHdr else .verifyAck } }) ∧
      (∀ rest : List Byte, waits.length = s.limit.toNat → s.chip = waits ++ rest →
        engineRun (2 * s.limit.toNat - 1) s = .next
          (({ s with
              trace := s.trace ++ pollEvents waits, chip := rest, statb := waits.getLastD 0, att := s.limit } :
            State).fail .timeout))

/-- A whole SEND_CHECK_ACK on a quiet block, against a chip that is ready at the `k`-th read and then sends six bytes, or that
is never ready (41_handshake.md R165, R170): the steps, the trace, the outcome. The chip's answers stand in the model's own
list `chip` (log 3). -/
def Obligations.SendCheckAckRun : Prop :=
  ∀ (s : State) (cmd plen : Byte) (waits : List Byte), s.quiet → plen.toNat ≤ s.param.maxPlen.val →
    (∀ b ∈ waits, b.toNat % 2 = 0) →
    ∃ u, exec (.fceSendAck cmd plen) s = .next u ∧
      (∀ (r : Byte) (acks rest : List Byte), r.toNat % 2 = 1 → waits.length + 1 ≤ (s.param.attemptsOf s.tmo).toNat →
        acks.length = 6 → s.chip = waits ++ r :: (acks ++ rest) →
        ∃ t, engineRun (1 + (plen.toNat + 9) + (2 * (waits.length + 1) - 1) + 6) u = .next t ∧
          t.trace = s.trace ++ ([.csAssert] ++ (encodeFrame cmd (s.readBytes 0x100 plen.toNat)).map .write ++
            pollEvents (waits ++ [r]) ++ dataReads acks ++ [.csDeassert]) ∧
          t.status = { u.status with
            busy := false, done := true, ok := decide (acks = ackFrame),
            err := if acks = ackFrame then .noError else .ackMismatch,
            fsm := if acks = ackFrame then .success else .failed } ∧
          t.readBytes 0x600 6 = acks ∧ t.att.toNat = waits.length + 1 ∧ t.statb = r ∧ t.chip = rest ∧ t.rxn = s.rxn) ∧
      (∀ rest : List Byte, waits.length = (s.param.attemptsOf s.tmo).toNat → s.chip = waits ++ rest →
        ∃ t, engineRun (1 + (plen.toNat + 9) + (2 * waits.length - 1)) u = .next t ∧
          t.trace = s.trace ++ ([.csAssert] ++ (encodeFrame cmd (s.readBytes 0x100 plen.toNat)).map .write ++
            pollEvents waits ++ [.csDeassert]) ∧
          t.status = { u.status with busy := false, done := true, ok := false, err := .timeout, fsm := .failed } ∧
          t.att.toNat = waits.length ∧ t.chip = rest)

/-- A whole READ_RESPONSE and a whole EXCHANGE on a quiet block, with and without re-poll, whatever the chip answers
(41_handshake.md R166, R167, R170): the steps, the trace, the outcome. READ_RESPONSE ends in the re-poll's TIMEOUT, at a bad
header, or with the decode and the echo check; EXCHANGE before that in the first poll's TIMEOUT or at a bad ACK. The chip's
answers stand in the model's own list `chip` (log 3). -/
def Obligations.ReadResponseRun : Prop :=
  (∀ (s : State) (cmd plen : Byte) (polls data rest : List Byte) (out : Err × Byte × Byte), s.quiet →
    ResponsePart s.param.repoll (s.param.attemptsOf s.tmo).toNat cmd polls data out → s.chip = polls ++ data ++ rest →
    ∃ u t, exec (.fceReadResp cmd plen) s = .next u ∧
      engineRun (1 + (2 * polls.length - 1) + data.length) u = .next t ∧
      t.trace = s.trace ++ ([.csAssert] ++ pollEvents polls ++ dataReads data ++ [.csDeassert]) ∧
      t.status = u.status.endedWith out ∧ t.readBytes 0x400 data.length = data ∧
      (t.rxn = if data = [] then s.rxn else BitVec.ofNat 9 data.length) ∧ t.att.toNat = polls.length ∧
      t.statb = polls.getLastD s.statb ∧ t.chip = rest) ∧
    (∀ (s : State) (cmd plen : Byte), s.quiet → plen.toNat ≤ s.param.maxPlen.val →
      ∃ u, exec (.fceExchange cmd plen) s = .next u ∧
        (∀ polls rest : List Byte, pollFails (s.param.attemptsOf s.tmo).toNat polls → s.chip = polls ++ rest →
          ∃ t, engineRun (1 + (plen.toNat + 9) + (2 * polls.length - 1)) u = .next t ∧
            t.trace = s.trace ++ ([.csAssert] ++ (encodeFrame cmd (s.readBytes 0x100 plen.toNat)).map .write ++
              pollEvents polls ++ [.csDeassert]) ∧
            t.status = u.status.endedWith (.timeout, 0, 0) ∧ t.rxn = s.rxn ∧ t.att.toNat = polls.length ∧ t.chip = rest) ∧
        (∀ polls acks rest : List Byte, pollPasses (s.param.attemptsOf s.tmo).toNat polls → acks.length = 6 →
          acks ≠ ackFrame → s.chip = polls ++ acks ++ rest →
          ∃ t, engineRun (1 + (plen.toNat + 9) + (2 * polls.length - 1) + 6) u = .next t ∧
            t.trace = s.trace ++ ([.csAssert] ++ (encodeFrame cmd (s.readBytes 0x100 plen.toNat)).map .write ++
              pollEvents polls ++ dataReads acks ++ [.csDeassert]) ∧
            t.status = u.status.endedWith (.ackMismatch, 0, 0) ∧ t.readBytes 0x600 6 = acks ∧ t.rxn = s.rxn ∧
            t.att.toNat = polls.length ∧ t.chip = rest) ∧
        (∀ (polls repolls data rest : List Byte) (out : Err × Byte × Byte),
          pollPasses (s.param.attemptsOf s.tmo).toNat polls →
          ResponsePart s.param.repoll (s.param.attemptsOf s.tmo).toNat cmd repolls data out →
          s.chip = polls ++ ackFrame ++ repolls ++ data ++ rest →
          ∃ t, engineRun
              (1 + (plen.toNat + 9) + (2 * polls.length - 1) + 6 + (2 * repolls.length - 1) + data.length) u = .next t ∧
            t.trace = s.trace ++ ([.csAssert] ++ (encodeFrame cmd (s.readBytes 0x100 plen.toNat)).map .write ++
              pollEvents polls ++ dataReads ackFrame ++ pollEvents repolls ++ dataReads data ++ [.csDeassert]) ∧
            t.status = u.status.endedWith out ∧ t.readBytes 0x600 6 = ackFrame ∧ t.readBytes 0x400 data.length = data ∧
            (t.rxn = if data = [] then s.rxn else BitVec.ofNat 9 data.length) ∧
            t.att.toNat = (if repolls = [] then polls.length else repolls.length) ∧
            t.statb = (polls ++ repolls).getLastD 0 ∧ t.chip = rest))

/-! ### The whole machine -/

/-- 60_exceptions.md R230 and 20_memory.md R75: while an operation runs, nothing the host does in a step changes the block but
REJ, which it can only set. -/
def Obligations.HostCannotDisturb : Prop :=
  ∀ s t : State, s.status.busy = true → s.nextTurn = .host → step s = .next t →
    sameBlock { s with status := { s.status with rej := t.status.rej } } t ∧
      (s.status.rej = true → t.status.rej = true)

/-- The trace is append-only, the parameters never change (10_state.md R46, R37), and no turn of the host appends to the
trace of a block that keeps the invariant. -/
def Obligations.TraceAndParameters : Prop :=
  ∀ s t : State, step s = .next t →
    s.trace <+: t.trace ∧ t.param = s.param ∧ (Machine.Inv s → s.nextTurn = .host → t.trace = s.trace)

/-- 70_reset_and_hazards.md R251 and R252: the reset at any moment, every register and hidden field, chip-select released, and
no further transfer of the abandoned operation. -/
def Obligations.ResetEffect : Prop :=
  ∀ s : State, s.nextTurn = .reset →
    ∃ t, step s = .next t ∧ t.trace = (if s.status.cs then s.trace ++ [.csDeassert] else s.trace) ∧
      t.op = 0x00000000#32 ∧ (t.regWord .status).toNat = 0 ∧ t.status.fsm = .idle ∧ t.status.err = .noError ∧
      t.status.cs = false ∧ t.tmo = 0x3E8#16 ∧ t.rxn = 0 ∧ t.txn = 0 ∧ t.att = 0 ∧ t.limit = 0 ∧ t.statb = 0 ∧
      t.param = s.param ∧ t.opk = .none ∧ t.cmdl = 0 ∧ t.ph = false ∧ t.idx = 0 ∧ engineStep t = .next t

/-- 70_reset_and_hazards.md R253, in the form the model gives it (log 4): after a reset every buffer byte reads as the free draw
of the reader's tick and the offset, and a byte once written reads as written, whatever other byte is written after it. -/
def Obligations.UnwrittenBytes : Prop :=
  (∀ s : State, s.nextTurn = .reset →
    ∃ t, step s = .next t ∧
      ∀ off, bufferOffset off → windowRead .w8 off t = (Config.freeByte t.tick off).setWidth 64) ∧
    (∀ (s : State) (off o2 : Nat) (b b2 : Byte), bufferOffset off → o2 ≠ off →
      windowRead .w8 off ((s.writeByte off b).writeByte o2 b2) = b.setWidth 64 ∧
        ((s.writeByte off b).writeByte o2 b2).readByte o2 = b2)

/-- 41_handshake.md R152: the poll bound is total and in 1 to 65535 for every instance; the default formula; its two examples;
and an accepted bus operation sets LIMIT from TMO, which the engine then keeps. -/
def Obligations.PollBound : Prop :=
  (∀ (p : Param) (tmo : BitVec 16), 1 ≤ (p.attemptsOf tmo).toNat ∧ (p.attemptsOf tmo).toNat ≤ 65535) ∧
    (∀ (p : Param) (tmo : BitVec 16), p.attempts = [] → p.pollDelayMs ≠ 0 →
      (p.attemptsOf tmo).toNat = max 1 (min 65535 ((tmo.toNat + (p.pollDelayMs.toNat - 1)) / p.pollDelayMs.toNat))) ∧
    (∀ p : Param, p.attempts = [] → p.pollDelayMs = 10 →
      (p.attemptsOf 1000#16).toNat = 100 ∧ (p.attemptsOf 0#16).toNat = 1) ∧
    (∀ (i : Instr) (s t : State), exec i s = .next t → s.status.busy = false → t.status.busy = true →
      t.limit = s.param.attemptsOf s.tmo) ∧
    (∀ s t : State, engineStep s = .next t → t.limit = s.limit)

/-! ### The command layer -/

/-- Issuing a command code when no call runs begins its call, and so does the public `sendCommandCheckAck` with its array and
timeout (45_command_layer.md R190, R193, R195; 30_encoding.md R95; that this is what the code does is the model's reading,
log 15; general status, log 16; the timeout of a code's call, log 6). What the payloads carry, each named byte
once, in a free order among free others (log 18): no parameter for getFirmwareVersion (R194), a fixed payload for SAMConfig
(R198), `maxRetries` unchanged (R199), max-targets 1 and the baud rate (R200), slot, 0x60 or 0x61 by the key type, block, key and
UID (R202; what is sent of a UID of more than four bytes is free), slot, 0x30 and block for a read, slot, 0xA0, block and the
bytes for a write (R203, R204; 30_encoding.md R106). -/
def Obligations.CommandCodesStart : Prop :=
  (∀ s : State, s.client.call = none →
    exec .cmdFirmwareVersion s = .next (s.called .getFirmwareVersion 0x02#8) ∧
      exec .cmdGeneralStatus s = .next (s.called .generalStatus 0x04#8) ∧
      exec .cmdSamConfiguration s = .next (s.called .samConfig 0x14#8) ∧
      exec .cmdRfConfiguration s = .next (s.called .rfConfiguration 0x32#8) ∧
      exec .cmdInListPassiveTarget s = .next (s.called .readPassiveTargetID 0x4A#8) ∧
      (s.client.args.dataExchange = .authenticateBlock → s.client.args.key.length = 6 →
        exec .cmdDataExchange s = .next (s.called .authenticateBlock 0x40#8)) ∧
      (s.client.args.dataExchange = .readMemoryBlock → s.client.args.outSize = 16 →
        exec .cmdDataExchange s = .next (s.called .readMemoryBlock 0x40#8)) ∧
      (s.client.args.dataExchange = .writeMemoryBlock → s.client.args.data.length = 16 →
        exec .cmdDataExchange s = .next (s.called .writeMemoryBlock 0x40#8)) ∧
      (∀ c data tmo, hostOp (.sendCommandCheckAck (c :: data) tmo) s =
        .next (s.calledWith .sendCommandCheckAck c data tmo))) ∧
    (∀ a, CallKind.payload a .getFirmwareVersion = []) ∧ (∃ fixed, ∀ a, CallKind.payload a .samConfig = fixed) ∧
    (∃ before after, ∀ a, CallKind.payload a .rfConfiguration = before ++ [a.maxRetries] ++ after) ∧
    (∀ a, ∃ others, (CallKind.payload a .readPassiveTargetID).Perm ([0x01#8, a.baudRate] ++ others)) ∧
    (∀ a command, command = (if a.keyType = .keyA then 0x60#8 else 0x61#8) →
      (∃ others, (CallKind.payload a .authenticateBlock).Perm ([a.slot, command, a.block] ++ a.key ++ others)) ∧
        (a.uid.length ≤ 4 →
          ∃ others, (CallKind.payload a .authenticateBlock).Perm ([a.slot, command, a.block] ++ a.key ++ a.uid ++ others))) ∧
    (∀ a, ∃ others, (CallKind.payload a .readMemoryBlock).Perm ([a.slot, 0x30#8, a.block] ++ others)) ∧
    (∀ a, ∃ others, (CallKind.payload a .writeMemoryBlock).Perm ([a.slot, 0xA0#8, a.block] ++ a.data ++ others))

/-- 45_command_layer.md R205: a key that is not 6 bytes, or a block to write or a buffer to read into that is not 16, is
rejected before any block access; the caller gets the sentinel. So is a `sendCommandCheckAck` without a command byte
(30_encoding.md R95). -/
def Obligations.FixedSizes : Prop :=
  ∀ s : State, s.client.call = none →
    ((s.client.args.dataExchange = .authenticateBlock ∧ s.client.args.key.length ≠ 6) ∨
        (s.client.args.dataExchange = .readMemoryBlock ∧ s.client.args.outSize ≠ 16) ∨
        (s.client.args.dataExchange = .writeMemoryBlock ∧ s.client.args.data.length ≠ 16) →
      exec .cmdDataExchange s = .next
        { s with client := { s.client with call := none, result := some (.word 0), block := none } }) ∧
      (∀ tmo, hostOp (.sendCommandCheckAck [] tmo) s = .next
        { s with client := { s.client with call := none, result := some (.flag false), block := none } })

/-- The steps of a call (45_command_layer.md R190, R206, 30_encoding.md R95, 70_reset_and_hazards.md R256): the transport's
settings captured and the required ones forced (a free value, log 21), TMO, the payload, the SEND_CHECK_ACK word, the wait for
DONE, the READ_RESPONSE word with the same CMD only when data is expected and OK is 1, the payload bytes RXF[7] on, the return.
Every kind expects data but RFConfiguration (R199) and sendCommandCheckAck (R95); that general status does is the model's
choice (log 16, DESIGN CHOICE: R193 gives it no operation). A payload longer than the PLEN field is rejected before any access,
bytes 253 and 254 of one meet reserved offsets, and a write rejected while BUSY is not repeated (log 25). -/
def Obligations.CallSteps : Prop :=
  (∀ k : CallKind, k.expectsData = false ↔ k = .rfConfiguration ∨ k = .sendCommandCheckAck) ∧
  ∀ (s : State) (c : Call),
    (c.phase = .saveBus → c.payload.length ≤ 255 →
      callStep c s = .next (s.setCall (some { c with saved := s.transport, phase := .forceBus }))) ∧
      (c.phase = .forceBus → callStep c s = .next { s.toPhase c .writeTimeout with transport := Config.requiredBus }) ∧
      (c.phase = .writeTimeout → s.status.busy = true →
        callStep c s = .next (s.rejected.toPhase c (.writePayload 0))) ∧
      (∀ i b, c.phase = .writePayload i → c.payload[i]? = some b → i ≤ 252 → s.status.busy = true →
        callStep c s = .next (s.rejected.toPhase c (.writePayload (i + 1)))) ∧
      (∀ i b, c.phase = .writePayload i → c.payload[i]? = some b → 253 ≤ i → i ≤ 254 →
        callStep c s = .next (s.toPhase c (.writePayload (i + 1)))) ∧
      (∀ ok, c.phase = .restoreBus ok →
        callStep c s = .next
          { s.returnCall (c.kind.result ok c.got) (c.kind.blockOut ok c.got) with transport := c.saved }) ∧
      (c.phase = .saveBus → 255 < c.payload.length →
        callStep c s = .next (s.returnCall c.kind.sentinel none)) ∧
      (c.phase = .writeTimeout → s.status.busy = false →
        callStep c s = .next (({ s with tmo := c.timeoutMs } : State).toPhase c (.writePayload 0))) ∧
      (∀ i b, c.phase = .writePayload i → c.payload[i]? = some b → i ≤ 252 → s.status.busy = false →
        callStep c s = .next ((s.writeByte (0x100 + i) b).toPhase c (.writePayload (i + 1)))) ∧
      (∀ i, c.phase = .writePayload i → c.payload[i]? = none → callStep c s = .next (s.toPhase c .writeSend)) ∧
      (c.phase = .writeSend →
        callStep c s =
          andThen (exec (.fceSendAck c.cmd (BitVec.ofNat 8 c.payload.length)) s) (fun t => t.toPhase c .waitSend)) ∧
      (c.phase = .waitSend → s.status.done = false → callStep c s = .next (s.toPhase c .waitSend)) ∧
      (c.phase = .waitSend → s.status.done = true → s.status.ok = true →
        callStep c s = .next (s.toPhase c (if c.kind.expectsData then .writeRead else .restoreBus true))) ∧
      (c.phase = .writeRead →
        callStep c s = andThen (exec (.fceReadResp c.cmd 0) s) (fun t => t.toPhase c .waitRead)) ∧
      (c.phase = .waitRead → s.status.done = false → callStep c s = .next (s.toPhase c .waitRead)) ∧
      (c.phase = .waitRead → s.status.done = true → s.status.ok = true →
        callStep c s = .next (s.toPhase c (.fetch 0 s.status.respLen.toNat))) ∧
      (∀ i n, c.phase = .fetch i n → i < n → n ≤ 255 →
        callStep c s = .next
          (s.setCall (some { c with got := c.got ++ [s.readByte (0x407 + i)], phase := .fetch (i + 1) n }))) ∧
      (∀ i n, c.phase = .fetch i n → n ≤ i → callStep c s = .next (s.toPhase c (.restoreBus true)))

/-- 45_command_layer.md R206: a call captures the transport's settings, forces the required ones (a free value, log 21), keeps
them until its end and puts the captured ones back however it ends; only a call rejected for its payload's length (log 25)
ends without, having changed nothing. The driver's own backup lives from its backup to its restore (R195, R207); that a second
backup replaces the first is the model's choice (log 36, DESIGN CHOICE). -/
def Obligations.GuardRestores : Prop :=
  (∀ (s t : State) (c : Call), callStep c s = .next t →
    (c.phase = .saveBus →
      t.transport = s.transport ∧ ∀ d, t.client.call = some d → d.saved = s.transport ∧ d.phase = .forceBus) ∧
      (c.phase = .forceBus → t.transport = Config.requiredBus) ∧
      (c.phase ≠ .saveBus → ∀ d, t.client.call = some d → d.saved = c.saved) ∧
      (∀ ok, c.phase = .restoreBus ok → t.transport = c.saved ∧ t.client.call = none) ∧
      (c.phase ≠ .forceBus → (∀ ok, c.phase ≠ .restoreBus ok) → t.transport = s.transport) ∧
      (s.client.call = some c → t.client.call = none →
        (c.phase = .saveBus ∧ 255 < c.payload.length) ∨ ∃ ok, c.phase = .restoreBus ok)) ∧
    (∀ s : State, hostOp .backupBus s =
      .next { s with client := { s.client with backup := some s.transport } }) ∧
    (∀ (s : State) (b : BusSettings), s.client.backup = some b →
      hostOp .restoreBus s = .next { s with transport := b, client := { s.client with backup := none } })

/-- 45_command_layer.md R192: an operation that ended with OK 0, whatever its error, takes its call to its end, and the call
returns the sentinel. -/
def Obligations.Sentinels : Prop :=
  (∀ (s : State) (c : Call), (c.phase = .waitSend ∨ c.phase = .waitRead) → s.status.done = true → s.status.ok = false →
    callStep c s = .next (s.toPhase c (.restoreBus false))) ∧
    (∀ (s : State) (c : Call), c.phase = .restoreBus false →
      ∃ t, callStep c s = .next t ∧ t.client.call = none ∧ t.client.result = some c.kind.sentinel ∧
        t.client.block = none)

/-- The CardID of a UID of 1 to 4 bytes, the first byte most significant (45_command_layer.md R201). -/
def Obligations.CardIdBigEndian : Prop :=
  (∀ a : Byte, (cardID [a]).toNat = a.toNat) ∧
    (∀ a b : Byte, (cardID [a, b]).toNat = a.toNat * 256 + b.toNat) ∧
    (∀ a b c : Byte, (cardID [a, b, c]).toNat = a.toNat * 65536 + b.toNat * 256 + c.toNat) ∧
    (∀ a b c d : Byte,
      (cardID [a, b, c, d]).toNat = a.toNat * 16777216 + b.toNat * 65536 + c.toNat * 256 + d.toNat)

/-- A non-zero status byte of a data exchange is a failure and leaves the block without a value, status 0 a success that is
not 0 (45_command_layer.md R196, R202, R203); a target count of 0 gives CardID 0 (R200); SAMConfig and sendCommandCheckAck
return whether they succeeded (R198, R195), RFConfiguration nothing (R199), and every kind its sentinel and no block on a
failure (R192, R203). The places of the bytes and the success value are free values (logs 19, 30). -/
def Obligations.StatusBytes : Prop :=
  ∀ got : List Byte,
    (∀ k : CallKind, k ∈ [CallKind.authenticateBlock, .readMemoryBlock, .writeMemoryBlock] →
      (payloadByte got Config.statusPos ≠ 0 → k.result true got = .word 0 ∧ k.blockOut true got = none) ∧
        (payloadByte got Config.statusPos = 0 → ∃ v : Word, v ≠ 0 ∧ k.result true got = .word v)) ∧
      (payloadByte got Config.statusPos = 0 →
        ∃ b : List Byte, b.length = 16 ∧ CallKind.blockOut true got .readMemoryBlock = some b) ∧
      (payloadByte got Config.targetCountPos = 0 → CallKind.result true got .readPassiveTargetID = .word 0) ∧
      (∀ ok, CallKind.result ok got .samConfig = .flag ok ∧ CallKind.result ok got .sendCommandCheckAck = .flag ok ∧
        CallKind.result ok got .rfConfiguration = .nothing) ∧
      (∀ k : CallKind, k.result false got = k.sentinel ∧ k.blockOut false got = none)

end
end

