-- ==== Sys2Proof/Laws/State.lean ====
section
/-! SUPPORT. For each update of the state, the value of each field after it: one lemma a field, so that no proof unfolds
a record update. The operations that choose (`csRelease`, `finish`, `guardBusy`) follow at the end. -/

namespace Sys2Proof.Machine

variable (s : State)

/-! ### `writeByte` -/

@[simp] theorem State.writeByte_op (off : Nat) (b : Byte) : (s.writeByte off b).op = s.op := rfl
@[simp] theorem State.writeByte_status (off : Nat) (b : Byte) : (s.writeByte off b).status = s.status := rfl
@[simp] theorem State.writeByte_tmo (off : Nat) (b : Byte) : (s.writeByte off b).tmo = s.tmo := rfl
@[simp] theorem State.writeByte_rxn (off : Nat) (b : Byte) : (s.writeByte off b).rxn = s.rxn := rfl
@[simp] theorem State.writeByte_txn (off : Nat) (b : Byte) : (s.writeByte off b).txn = s.txn := rfl
@[simp] theorem State.writeByte_att (off : Nat) (b : Byte) : (s.writeByte off b).att = s.att := rfl
@[simp] theorem State.writeByte_limit (off : Nat) (b : Byte) : (s.writeByte off b).limit = s.limit := rfl
@[simp] theorem State.writeByte_statb (off : Nat) (b : Byte) : (s.writeByte off b).statb = s.statb := rfl
@[simp] theorem State.writeByte_param (off : Nat) (b : Byte) : (s.writeByte off b).param = s.param := rfl
@[simp] theorem State.writeByte_mem (off : Nat) (b : Byte) : (s.writeByte off b).mem = Memory.set off b s.mem := rfl
@[simp] theorem State.writeByte_opk (off : Nat) (b : Byte) : (s.writeByte off b).opk = s.opk := rfl
@[simp] theorem State.writeByte_cmdl (off : Nat) (b : Byte) : (s.writeByte off b).cmdl = s.cmdl := rfl
@[simp] theorem State.writeByte_ph (off : Nat) (b : Byte) : (s.writeByte off b).ph = s.ph := rfl
@[simp] theorem State.writeByte_idx (off : Nat) (b : Byte) : (s.writeByte off b).idx = s.idx := rfl
@[simp] theorem State.writeByte_trace (off : Nat) (b : Byte) : (s.writeByte off b).trace = s.trace := rfl
@[simp] theorem State.writeByte_client (off : Nat) (b : Byte) : (s.writeByte off b).client = s.client := rfl
@[simp] theorem State.writeByte_transport (off : Nat) (b : Byte) : (s.writeByte off b).transport = s.transport := rfl
@[simp] theorem State.writeByte_turns (off : Nat) (b : Byte) : (s.writeByte off b).turns = s.turns := rfl
@[simp] theorem State.writeByte_chip (off : Nat) (b : Byte) : (s.writeByte off b).chip = s.chip := rfl
@[simp] theorem State.writeByte_tick (off : Nat) (b : Byte) : (s.writeByte off b).tick = s.tick := rfl

/-! ### `emit` -/

@[simp] theorem State.emit_op (e : BusEvent) : (s.emit e).op = s.op := rfl
@[simp] theorem State.emit_status (e : BusEvent) : (s.emit e).status = s.status := rfl
@[simp] theorem State.emit_tmo (e : BusEvent) : (s.emit e).tmo = s.tmo := rfl
@[simp] theorem State.emit_rxn (e : BusEvent) : (s.emit e).rxn = s.rxn := rfl
@[simp] theorem State.emit_txn (e : BusEvent) : (s.emit e).txn = s.txn := rfl
@[simp] theorem State.emit_att (e : BusEvent) : (s.emit e).att = s.att := rfl
@[simp] theorem State.emit_limit (e : BusEvent) : (s.emit e).limit = s.limit := rfl
@[simp] theorem State.emit_statb (e : BusEvent) : (s.emit e).statb = s.statb := rfl
@[simp] theorem State.emit_param (e : BusEvent) : (s.emit e).param = s.param := rfl
@[simp] theorem State.emit_mem (e : BusEvent) : (s.emit e).mem = s.mem := rfl
@[simp] theorem State.emit_opk (e : BusEvent) : (s.emit e).opk = s.opk := rfl
@[simp] theorem State.emit_cmdl (e : BusEvent) : (s.emit e).cmdl = s.cmdl := rfl
@[simp] theorem State.emit_ph (e : BusEvent) : (s.emit e).ph = s.ph := rfl
@[simp] theorem State.emit_idx (e : BusEvent) : (s.emit e).idx = s.idx := rfl
@[simp] theorem State.emit_trace (e : BusEvent) : (s.emit e).trace = s.trace ++ [e] := rfl
@[simp] theorem State.emit_client (e : BusEvent) : (s.emit e).client = s.client := rfl
@[simp] theorem State.emit_transport (e : BusEvent) : (s.emit e).transport = s.transport := rfl
@[simp] theorem State.emit_turns (e : BusEvent) : (s.emit e).turns = s.turns := rfl
@[simp] theorem State.emit_chip (e : BusEvent) : (s.emit e).chip = s.chip := rfl
@[simp] theorem State.emit_tick (e : BusEvent) : (s.emit e).tick = s.tick := rfl

/-! ### `csAssert` -/

@[simp] theorem State.csAssert_op : (s.csAssert).op = s.op := rfl
@[simp] theorem State.csAssert_status : (s.csAssert).status = { s.status with cs := true } := rfl
@[simp] theorem State.csAssert_tmo : (s.csAssert).tmo = s.tmo := rfl
@[simp] theorem State.csAssert_rxn : (s.csAssert).rxn = s.rxn := rfl
@[simp] theorem State.csAssert_txn : (s.csAssert).txn = s.txn := rfl
@[simp] theorem State.csAssert_att : (s.csAssert).att = s.att := rfl
@[simp] theorem State.csAssert_limit : (s.csAssert).limit = s.limit := rfl
@[simp] theorem State.csAssert_statb : (s.csAssert).statb = s.statb := rfl
@[simp] theorem State.csAssert_param : (s.csAssert).param = s.param := rfl
@[simp] theorem State.csAssert_mem : (s.csAssert).mem = s.mem := rfl
@[simp] theorem State.csAssert_opk : (s.csAssert).opk = s.opk := rfl
@[simp] theorem State.csAssert_cmdl : (s.csAssert).cmdl = s.cmdl := rfl
@[simp] theorem State.csAssert_ph : (s.csAssert).ph = s.ph := rfl
@[simp] theorem State.csAssert_idx : (s.csAssert).idx = s.idx := rfl
@[simp] theorem State.csAssert_trace : (s.csAssert).trace = s.trace ++ [.csAssert] := rfl
@[simp] theorem State.csAssert_client : (s.csAssert).client = s.client := rfl
@[simp] theorem State.csAssert_transport : (s.csAssert).transport = s.transport := rfl
@[simp] theorem State.csAssert_turns : (s.csAssert).turns = s.turns := rfl
@[simp] theorem State.csAssert_chip : (s.csAssert).chip = s.chip := rfl
@[simp] theorem State.csAssert_tick : (s.csAssert).tick = s.tick := rfl

/-! ### `busRead` -/

@[simp] theorem State.busRead_op (k : XferKind) : (s.busRead k).op = s.op := rfl
@[simp] theorem State.busRead_status (k : XferKind) : (s.busRead k).status = s.status := rfl
@[simp] theorem State.busRead_tmo (k : XferKind) : (s.busRead k).tmo = s.tmo := rfl
@[simp] theorem State.busRead_rxn (k : XferKind) : (s.busRead k).rxn = s.rxn := rfl
@[simp] theorem State.busRead_txn (k : XferKind) : (s.busRead k).txn = s.txn := rfl
@[simp] theorem State.busRead_att (k : XferKind) : (s.busRead k).att = s.att := rfl
@[simp] theorem State.busRead_limit (k : XferKind) : (s.busRead k).limit = s.limit := rfl
@[simp] theorem State.busRead_statb (k : XferKind) : (s.busRead k).statb = s.statb := rfl
@[simp] theorem State.busRead_param (k : XferKind) : (s.busRead k).param = s.param := rfl
@[simp] theorem State.busRead_mem (k : XferKind) : (s.busRead k).mem = s.mem := rfl
@[simp] theorem State.busRead_opk (k : XferKind) : (s.busRead k).opk = s.opk := rfl
@[simp] theorem State.busRead_cmdl (k : XferKind) : (s.busRead k).cmdl = s.cmdl := rfl
@[simp] theorem State.busRead_ph (k : XferKind) : (s.busRead k).ph = s.ph := rfl
@[simp] theorem State.busRead_idx (k : XferKind) : (s.busRead k).idx = s.idx := rfl
@[simp] theorem State.busRead_trace (k : XferKind) : (s.busRead k).trace = s.trace ++ [.read k (s.chipAnswer k)] := rfl
@[simp] theorem State.busRead_client (k : XferKind) : (s.busRead k).client = s.client := rfl
@[simp] theorem State.busRead_transport (k : XferKind) : (s.busRead k).transport = s.transport := rfl
@[simp] theorem State.busRead_turns (k : XferKind) : (s.busRead k).turns = s.turns := rfl
@[simp] theorem State.busRead_chip (k : XferKind) : (s.busRead k).chip = s.chip.tail := rfl
@[simp] theorem State.busRead_tick (k : XferKind) : (s.busRead k).tick = s.tick := rfl

/-! ### `accept` -/

@[simp] theorem State.accept_op (v : Word) : (s.accept v).op = v := rfl
@[simp] theorem State.accept_status (v : Word) : (s.accept v).status = { s.status with done := false, ok := false, err := .noError, rej := false, respCmd := 0, respLen := 0 } := rfl
@[simp] theorem State.accept_tmo (v : Word) : (s.accept v).tmo = s.tmo := rfl
@[simp] theorem State.accept_rxn (v : Word) : (s.accept v).rxn = s.rxn := rfl
@[simp] theorem State.accept_txn (v : Word) : (s.accept v).txn = s.txn := rfl
@[simp] theorem State.accept_att (v : Word) : (s.accept v).att = 0 := rfl
@[simp] theorem State.accept_limit (v : Word) : (s.accept v).limit = s.limit := rfl
@[simp] theorem State.accept_statb (v : Word) : (s.accept v).statb = s.statb := rfl
@[simp] theorem State.accept_param (v : Word) : (s.accept v).param = s.param := rfl
@[simp] theorem State.accept_mem (v : Word) : (s.accept v).mem = s.mem := rfl
@[simp] theorem State.accept_opk (v : Word) : (s.accept v).opk = s.opk := rfl
@[simp] theorem State.accept_cmdl (v : Word) : (s.accept v).cmdl = s.cmdl := rfl
@[simp] theorem State.accept_ph (v : Word) : (s.accept v).ph = s.ph := rfl
@[simp] theorem State.accept_idx (v : Word) : (s.accept v).idx = s.idx := rfl
@[simp] theorem State.accept_trace (v : Word) : (s.accept v).trace = s.trace := rfl
@[simp] theorem State.accept_client (v : Word) : (s.accept v).client = s.client := rfl
@[simp] theorem State.accept_transport (v : Word) : (s.accept v).transport = s.transport := rfl
@[simp] theorem State.accept_turns (v : Word) : (s.accept v).turns = s.turns := rfl
@[simp] theorem State.accept_chip (v : Word) : (s.accept v).chip = s.chip := rfl
@[simp] theorem State.accept_tick (v : Word) : (s.accept v).tick = s.tick := rfl

/-! ### `setResponse` -/

@[simp] theorem State.setResponse_op (c p : Byte) : (s.setResponse c p).op = s.op := rfl
@[simp] theorem State.setResponse_status (c p : Byte) : (s.setResponse c p).status = { s.status with respCmd := c, respLen := p } := rfl
@[simp] theorem State.setResponse_tmo (c p : Byte) : (s.setResponse c p).tmo = s.tmo := rfl
@[simp] theorem State.setResponse_rxn (c p : Byte) : (s.setResponse c p).rxn = s.rxn := rfl
@[simp] theorem State.setResponse_txn (c p : Byte) : (s.setResponse c p).txn = s.txn := rfl
@[simp] theorem State.setResponse_att (c p : Byte) : (s.setResponse c p).att = s.att := rfl
@[simp] theorem State.setResponse_limit (c p : Byte) : (s.setResponse c p).limit = s.limit := rfl
@[simp] theorem State.setResponse_statb (c p : Byte) : (s.setResponse c p).statb = s.statb := rfl
@[simp] theorem State.setResponse_param (c p : Byte) : (s.setResponse c p).param = s.param := rfl
@[simp] theorem State.setResponse_mem (c p : Byte) : (s.setResponse c p).mem = s.mem := rfl
@[simp] theorem State.setResponse_opk (c p : Byte) : (s.setResponse c p).opk = s.opk := rfl
@[simp] theorem State.setResponse_cmdl (c p : Byte) : (s.setResponse c p).cmdl = s.cmdl := rfl
@[simp] theorem State.setResponse_ph (c p : Byte) : (s.setResponse c p).ph = s.ph := rfl
@[simp] theorem State.setResponse_idx (c p : Byte) : (s.setResponse c p).idx = s.idx := rfl
@[simp] theorem State.setResponse_trace (c p : Byte) : (s.setResponse c p).trace = s.trace := rfl
@[simp] theorem State.setResponse_client (c p : Byte) : (s.setResponse c p).client = s.client := rfl
@[simp] theorem State.setResponse_transport (c p : Byte) : (s.setResponse c p).transport = s.transport := rfl
@[simp] theorem State.setResponse_turns (c p : Byte) : (s.setResponse c p).turns = s.turns := rfl
@[simp] theorem State.setResponse_chip (c p : Byte) : (s.setResponse c p).chip = s.chip := rfl
@[simp] theorem State.setResponse_tick (c p : Byte) : (s.setResponse c p).tick = s.tick := rfl

/-! ### `encodeInto` -/

@[simp] theorem State.encodeInto_op (c p : Byte) : (s.encodeInto c p).op = s.op := rfl
@[simp] theorem State.encodeInto_status (c p : Byte) : (s.encodeInto c p).status = s.status := rfl
@[simp] theorem State.encodeInto_tmo (c p : Byte) : (s.encodeInto c p).tmo = s.tmo := rfl
@[simp] theorem State.encodeInto_rxn (c p : Byte) : (s.encodeInto c p).rxn = s.rxn := rfl
@[simp] theorem State.encodeInto_txn (c p : Byte) : (s.encodeInto c p).txn = BitVec.ofNat 9 (p.toNat + 9) := rfl
@[simp] theorem State.encodeInto_att (c p : Byte) : (s.encodeInto c p).att = s.att := rfl
@[simp] theorem State.encodeInto_limit (c p : Byte) : (s.encodeInto c p).limit = s.limit := rfl
@[simp] theorem State.encodeInto_statb (c p : Byte) : (s.encodeInto c p).statb = s.statb := rfl
@[simp] theorem State.encodeInto_param (c p : Byte) : (s.encodeInto c p).param = s.param := rfl
@[simp] theorem State.encodeInto_mem (c p : Byte) : (s.encodeInto c p).mem = Memory.setRange txfBase (encodeFrame c (s.payload p)) s.mem := rfl
@[simp] theorem State.encodeInto_opk (c p : Byte) : (s.encodeInto c p).opk = s.opk := rfl
@[simp] theorem State.encodeInto_cmdl (c p : Byte) : (s.encodeInto c p).cmdl = s.cmdl := rfl
@[simp] theorem State.encodeInto_ph (c p : Byte) : (s.encodeInto c p).ph = s.ph := rfl
@[simp] theorem State.encodeInto_idx (c p : Byte) : (s.encodeInto c p).idx = s.idx := rfl
@[simp] theorem State.encodeInto_trace (c p : Byte) : (s.encodeInto c p).trace = s.trace := rfl
@[simp] theorem State.encodeInto_client (c p : Byte) : (s.encodeInto c p).client = s.client := rfl
@[simp] theorem State.encodeInto_transport (c p : Byte) : (s.encodeInto c p).transport = s.transport := rfl
@[simp] theorem State.encodeInto_turns (c p : Byte) : (s.encodeInto c p).turns = s.turns := rfl
@[simp] theorem State.encodeInto_chip (c p : Byte) : (s.encodeInto c p).chip = s.chip := rfl
@[simp] theorem State.encodeInto_tick (c p : Byte) : (s.encodeInto c p).tick = s.tick := rfl

/-! ### `startBus` -/

@[simp] theorem State.startBus_op (k : OpKind) (c : Byte) : (s.startBus k c).op = s.op := rfl
@[simp] theorem State.startBus_status (k : OpKind) (c : Byte) : (s.startBus k c).status = { s.status with busy := true, fsm := .start } := rfl
@[simp] theorem State.startBus_tmo (k : OpKind) (c : Byte) : (s.startBus k c).tmo = s.tmo := rfl
@[simp] theorem State.startBus_rxn (k : OpKind) (c : Byte) : (s.startBus k c).rxn = s.rxn := rfl
@[simp] theorem State.startBus_txn (k : OpKind) (c : Byte) : (s.startBus k c).txn = s.txn := rfl
@[simp] theorem State.startBus_att (k : OpKind) (c : Byte) : (s.startBus k c).att = s.att := rfl
@[simp] theorem State.startBus_limit (k : OpKind) (c : Byte) : (s.startBus k c).limit = s.param.attemptsOf s.tmo := rfl
@[simp] theorem State.startBus_statb (k : OpKind) (c : Byte) : (s.startBus k c).statb = s.statb := rfl
@[simp] theorem State.startBus_param (k : OpKind) (c : Byte) : (s.startBus k c).param = s.param := rfl
@[simp] theorem State.startBus_mem (k : OpKind) (c : Byte) : (s.startBus k c).mem = s.mem := rfl
@[simp] theorem State.startBus_opk (k : OpKind) (c : Byte) : (s.startBus k c).opk = k := rfl
@[simp] theorem State.startBus_cmdl (k : OpKind) (c : Byte) : (s.startBus k c).cmdl = c := rfl
@[simp] theorem State.startBus_ph (k : OpKind) (c : Byte) : (s.startBus k c).ph = false := rfl
@[simp] theorem State.startBus_idx (k : OpKind) (c : Byte) : (s.startBus k c).idx = 0 := rfl
@[simp] theorem State.startBus_trace (k : OpKind) (c : Byte) : (s.startBus k c).trace = s.trace := rfl
@[simp] theorem State.startBus_client (k : OpKind) (c : Byte) : (s.startBus k c).client = s.client := rfl
@[simp] theorem State.startBus_transport (k : OpKind) (c : Byte) : (s.startBus k c).transport = s.transport := rfl
@[simp] theorem State.startBus_turns (k : OpKind) (c : Byte) : (s.startBus k c).turns = s.turns := rfl
@[simp] theorem State.startBus_chip (k : OpKind) (c : Byte) : (s.startBus k c).chip = s.chip := rfl
@[simp] theorem State.startBus_tick (k : OpKind) (c : Byte) : (s.startBus k c).tick = s.tick := rfl

/-! ### `setFsm` -/

@[simp] theorem State.setFsm_op (f : Fsm) : (s.setFsm f).op = s.op := rfl
@[simp] theorem State.setFsm_status (f : Fsm) : (s.setFsm f).status = { s.status with fsm := f } := rfl
@[simp] theorem State.setFsm_tmo (f : Fsm) : (s.setFsm f).tmo = s.tmo := rfl
@[simp] theorem State.setFsm_rxn (f : Fsm) : (s.setFsm f).rxn = s.rxn := rfl
@[simp] theorem State.setFsm_txn (f : Fsm) : (s.setFsm f).txn = s.txn := rfl
@[simp] theorem State.setFsm_att (f : Fsm) : (s.setFsm f).att = s.att := rfl
@[simp] theorem State.setFsm_limit (f : Fsm) : (s.setFsm f).limit = s.limit := rfl
@[simp] theorem State.setFsm_statb (f : Fsm) : (s.setFsm f).statb = s.statb := rfl
@[simp] theorem State.setFsm_param (f : Fsm) : (s.setFsm f).param = s.param := rfl
@[simp] theorem State.setFsm_mem (f : Fsm) : (s.setFsm f).mem = s.mem := rfl
@[simp] theorem State.setFsm_opk (f : Fsm) : (s.setFsm f).opk = s.opk := rfl
@[simp] theorem State.setFsm_cmdl (f : Fsm) : (s.setFsm f).cmdl = s.cmdl := rfl
@[simp] theorem State.setFsm_ph (f : Fsm) : (s.setFsm f).ph = s.ph := rfl
@[simp] theorem State.setFsm_idx (f : Fsm) : (s.setFsm f).idx = s.idx := rfl
@[simp] theorem State.setFsm_trace (f : Fsm) : (s.setFsm f).trace = s.trace := rfl
@[simp] theorem State.setFsm_client (f : Fsm) : (s.setFsm f).client = s.client := rfl
@[simp] theorem State.setFsm_transport (f : Fsm) : (s.setFsm f).transport = s.transport := rfl
@[simp] theorem State.setFsm_turns (f : Fsm) : (s.setFsm f).turns = s.turns := rfl
@[simp] theorem State.setFsm_chip (f : Fsm) : (s.setFsm f).chip = s.chip := rfl
@[simp] theorem State.setFsm_tick (f : Fsm) : (s.setFsm f).tick = s.tick := rfl

/-! ### `beginPoll` -/

@[simp] theorem State.beginPoll_op (p : Bool) : (s.beginPoll p).op = s.op := rfl
@[simp] theorem State.beginPoll_status (p : Bool) : (s.beginPoll p).status = { s.status with fsm := .awaitReady } := rfl
@[simp] theorem State.beginPoll_tmo (p : Bool) : (s.beginPoll p).tmo = s.tmo := rfl
@[simp] theorem State.beginPoll_rxn (p : Bool) : (s.beginPoll p).rxn = s.rxn := rfl
@[simp] theorem State.beginPoll_txn (p : Bool) : (s.beginPoll p).txn = s.txn := rfl
@[simp] theorem State.beginPoll_att (p : Bool) : (s.beginPoll p).att = 0 := rfl
@[simp] theorem State.beginPoll_limit (p : Bool) : (s.beginPoll p).limit = s.limit := rfl
@[simp] theorem State.beginPoll_statb (p : Bool) : (s.beginPoll p).statb = s.statb := rfl
@[simp] theorem State.beginPoll_param (p : Bool) : (s.beginPoll p).param = s.param := rfl
@[simp] theorem State.beginPoll_mem (p : Bool) : (s.beginPoll p).mem = s.mem := rfl
@[simp] theorem State.beginPoll_opk (p : Bool) : (s.beginPoll p).opk = s.opk := rfl
@[simp] theorem State.beginPoll_cmdl (p : Bool) : (s.beginPoll p).cmdl = s.cmdl := rfl
@[simp] theorem State.beginPoll_ph (p : Bool) : (s.beginPoll p).ph = p := rfl
@[simp] theorem State.beginPoll_idx (p : Bool) : (s.beginPoll p).idx = s.idx := rfl
@[simp] theorem State.beginPoll_trace (p : Bool) : (s.beginPoll p).trace = s.trace := rfl
@[simp] theorem State.beginPoll_client (p : Bool) : (s.beginPoll p).client = s.client := rfl
@[simp] theorem State.beginPoll_transport (p : Bool) : (s.beginPoll p).transport = s.transport := rfl
@[simp] theorem State.beginPoll_turns (p : Bool) : (s.beginPoll p).turns = s.turns := rfl
@[simp] theorem State.beginPoll_chip (p : Bool) : (s.beginPoll p).chip = s.chip := rfl
@[simp] theorem State.beginPoll_tick (p : Bool) : (s.beginPoll p).tick = s.tick := rfl

/-! ### `receiveByte` -/

@[simp] theorem State.receiveByte_op : (s.receiveByte).op = s.op := rfl
@[simp] theorem State.receiveByte_status : (s.receiveByte).status = s.status := rfl
@[simp] theorem State.receiveByte_tmo : (s.receiveByte).tmo = s.tmo := rfl
@[simp] theorem State.receiveByte_rxn : (s.receiveByte).rxn = s.idx + 1 := rfl
@[simp] theorem State.receiveByte_txn : (s.receiveByte).txn = s.txn := rfl
@[simp] theorem State.receiveByte_att : (s.receiveByte).att = s.att := rfl
@[simp] theorem State.receiveByte_limit : (s.receiveByte).limit = s.limit := rfl
@[simp] theorem State.receiveByte_statb : (s.receiveByte).statb = s.statb := rfl
@[simp] theorem State.receiveByte_param : (s.receiveByte).param = s.param := rfl
@[simp] theorem State.receiveByte_mem : (s.receiveByte).mem = Memory.set (rxfBase + s.idx.toNat) (s.chipAnswer .data) s.mem := rfl
@[simp] theorem State.receiveByte_opk : (s.receiveByte).opk = s.opk := rfl
@[simp] theorem State.receiveByte_cmdl : (s.receiveByte).cmdl = s.cmdl := rfl
@[simp] theorem State.receiveByte_ph : (s.receiveByte).ph = s.ph := rfl
@[simp] theorem State.receiveByte_idx : (s.receiveByte).idx = s.idx + 1 := rfl
@[simp] theorem State.receiveByte_trace : (s.receiveByte).trace = s.trace ++ [.read .data (s.chipAnswer .data)] := rfl
@[simp] theorem State.receiveByte_client : (s.receiveByte).client = s.client := rfl
@[simp] theorem State.receiveByte_transport : (s.receiveByte).transport = s.transport := rfl
@[simp] theorem State.receiveByte_turns : (s.receiveByte).turns = s.turns := rfl
@[simp] theorem State.receiveByte_chip : (s.receiveByte).chip = s.chip.tail := rfl
@[simp] theorem State.receiveByte_tick : (s.receiveByte).tick = s.tick := rfl

/-! ### `setCall` -/

@[simp] theorem State.setCall_op (c : Option Call) : (s.setCall c).op = s.op := rfl
@[simp] theorem State.setCall_status (c : Option Call) : (s.setCall c).status = s.status := rfl
@[simp] theorem State.setCall_tmo (c : Option Call) : (s.setCall c).tmo = s.tmo := rfl
@[simp] theorem State.setCall_rxn (c : Option Call) : (s.setCall c).rxn = s.rxn := rfl
@[simp] theorem State.setCall_txn (c : Option Call) : (s.setCall c).txn = s.txn := rfl
@[simp] theorem State.setCall_att (c : Option Call) : (s.setCall c).att = s.att := rfl
@[simp] theorem State.setCall_limit (c : Option Call) : (s.setCall c).limit = s.limit := rfl
@[simp] theorem State.setCall_statb (c : Option Call) : (s.setCall c).statb = s.statb := rfl
@[simp] theorem State.setCall_param (c : Option Call) : (s.setCall c).param = s.param := rfl
@[simp] theorem State.setCall_mem (c : Option Call) : (s.setCall c).mem = s.mem := rfl
@[simp] theorem State.setCall_opk (c : Option Call) : (s.setCall c).opk = s.opk := rfl
@[simp] theorem State.setCall_cmdl (c : Option Call) : (s.setCall c).cmdl = s.cmdl := rfl
@[simp] theorem State.setCall_ph (c : Option Call) : (s.setCall c).ph = s.ph := rfl
@[simp] theorem State.setCall_idx (c : Option Call) : (s.setCall c).idx = s.idx := rfl
@[simp] theorem State.setCall_trace (c : Option Call) : (s.setCall c).trace = s.trace := rfl
@[simp] theorem State.setCall_client (c : Option Call) : (s.setCall c).client = { s.client with call := c } := rfl
@[simp] theorem State.setCall_transport (c : Option Call) : (s.setCall c).transport = s.transport := rfl
@[simp] theorem State.setCall_turns (c : Option Call) : (s.setCall c).turns = s.turns := rfl
@[simp] theorem State.setCall_chip (c : Option Call) : (s.setCall c).chip = s.chip := rfl
@[simp] theorem State.setCall_tick (c : Option Call) : (s.setCall c).tick = s.tick := rfl

/-! ### `toPhase` -/

@[simp] theorem State.toPhase_op (c : Call) (p : Phase) : (s.toPhase c p).op = s.op := rfl
@[simp] theorem State.toPhase_status (c : Call) (p : Phase) : (s.toPhase c p).status = s.status := rfl
@[simp] theorem State.toPhase_tmo (c : Call) (p : Phase) : (s.toPhase c p).tmo = s.tmo := rfl
@[simp] theorem State.toPhase_rxn (c : Call) (p : Phase) : (s.toPhase c p).rxn = s.rxn := rfl
@[simp] theorem State.toPhase_txn (c : Call) (p : Phase) : (s.toPhase c p).txn = s.txn := rfl
@[simp] theorem State.toPhase_att (c : Call) (p : Phase) : (s.toPhase c p).att = s.att := rfl
@[simp] theorem State.toPhase_limit (c : Call) (p : Phase) : (s.toPhase c p).limit = s.limit := rfl
@[simp] theorem State.toPhase_statb (c : Call) (p : Phase) : (s.toPhase c p).statb = s.statb := rfl
@[simp] theorem State.toPhase_param (c : Call) (p : Phase) : (s.toPhase c p).param = s.param := rfl
@[simp] theorem State.toPhase_mem (c : Call) (p : Phase) : (s.toPhase c p).mem = s.mem := rfl
@[simp] theorem State.toPhase_opk (c : Call) (p : Phase) : (s.toPhase c p).opk = s.opk := rfl
@[simp] theorem State.toPhase_cmdl (c : Call) (p : Phase) : (s.toPhase c p).cmdl = s.cmdl := rfl
@[simp] theorem State.toPhase_ph (c : Call) (p : Phase) : (s.toPhase c p).ph = s.ph := rfl
@[simp] theorem State.toPhase_idx (c : Call) (p : Phase) : (s.toPhase c p).idx = s.idx := rfl
@[simp] theorem State.toPhase_trace (c : Call) (p : Phase) : (s.toPhase c p).trace = s.trace := rfl
@[simp] theorem State.toPhase_client (c : Call) (p : Phase) : (s.toPhase c p).client = { s.client with call := some { c with phase := p } } := rfl
@[simp] theorem State.toPhase_transport (c : Call) (p : Phase) : (s.toPhase c p).transport = s.transport := rfl
@[simp] theorem State.toPhase_turns (c : Call) (p : Phase) : (s.toPhase c p).turns = s.turns := rfl
@[simp] theorem State.toPhase_chip (c : Call) (p : Phase) : (s.toPhase c p).chip = s.chip := rfl
@[simp] theorem State.toPhase_tick (c : Call) (p : Phase) : (s.toPhase c p).tick = s.tick := rfl

/-! ### `returnCall` -/

@[simp] theorem State.returnCall_op (r : Result) (b : Option (List Byte)) : (s.returnCall r b).op = s.op := rfl
@[simp] theorem State.returnCall_status (r : Result) (b : Option (List Byte)) : (s.returnCall r b).status = s.status := rfl
@[simp] theorem State.returnCall_tmo (r : Result) (b : Option (List Byte)) : (s.returnCall r b).tmo = s.tmo := rfl
@[simp] theorem State.returnCall_rxn (r : Result) (b : Option (List Byte)) : (s.returnCall r b).rxn = s.rxn := rfl
@[simp] theorem State.returnCall_txn (r : Result) (b : Option (List Byte)) : (s.returnCall r b).txn = s.txn := rfl
@[simp] theorem State.returnCall_att (r : Result) (b : Option (List Byte)) : (s.returnCall r b).att = s.att := rfl
@[simp] theorem State.returnCall_limit (r : Result) (b : Option (List Byte)) : (s.returnCall r b).limit = s.limit := rfl
@[simp] theorem State.returnCall_statb (r : Result) (b : Option (List Byte)) : (s.returnCall r b).statb = s.statb := rfl
@[simp] theorem State.returnCall_param (r : Result) (b : Option (List Byte)) : (s.returnCall r b).param = s.param := rfl
@[simp] theorem State.returnCall_mem (r : Result) (b : Option (List Byte)) : (s.returnCall r b).mem = s.mem := rfl
@[simp] theorem State.returnCall_opk (r : Result) (b : Option (List Byte)) : (s.returnCall r b).opk = s.opk := rfl
@[simp] theorem State.returnCall_cmdl (r : Result) (b : Option (List Byte)) : (s.returnCall r b).cmdl = s.cmdl := rfl
@[simp] theorem State.returnCall_ph (r : Result) (b : Option (List Byte)) : (s.returnCall r b).ph = s.ph := rfl
@[simp] theorem State.returnCall_idx (r : Result) (b : Option (List Byte)) : (s.returnCall r b).idx = s.idx := rfl
@[simp] theorem State.returnCall_trace (r : Result) (b : Option (List Byte)) : (s.returnCall r b).trace = s.trace := rfl
@[simp] theorem State.returnCall_client (r : Result) (b : Option (List Byte)) : (s.returnCall r b).client = { s.client with call := none, result := some r, block := b } := rfl
@[simp] theorem State.returnCall_transport (r : Result) (b : Option (List Byte)) : (s.returnCall r b).transport = s.transport := rfl
@[simp] theorem State.returnCall_turns (r : Result) (b : Option (List Byte)) : (s.returnCall r b).turns = s.turns := rfl
@[simp] theorem State.returnCall_chip (r : Result) (b : Option (List Byte)) : (s.returnCall r b).chip = s.chip := rfl
@[simp] theorem State.returnCall_tick (r : Result) (b : Option (List Byte)) : (s.returnCall r b).tick = s.tick := rfl

/-! ### `logRead` -/

@[simp] theorem State.logRead_op (v : HostData) : (s.logRead v).op = s.op := rfl
@[simp] theorem State.logRead_status (v : HostData) : (s.logRead v).status = s.status := rfl
@[simp] theorem State.logRead_tmo (v : HostData) : (s.logRead v).tmo = s.tmo := rfl
@[simp] theorem State.logRead_rxn (v : HostData) : (s.logRead v).rxn = s.rxn := rfl
@[simp] theorem State.logRead_txn (v : HostData) : (s.logRead v).txn = s.txn := rfl
@[simp] theorem State.logRead_att (v : HostData) : (s.logRead v).att = s.att := rfl
@[simp] theorem State.logRead_limit (v : HostData) : (s.logRead v).limit = s.limit := rfl
@[simp] theorem State.logRead_statb (v : HostData) : (s.logRead v).statb = s.statb := rfl
@[simp] theorem State.logRead_param (v : HostData) : (s.logRead v).param = s.param := rfl
@[simp] theorem State.logRead_mem (v : HostData) : (s.logRead v).mem = s.mem := rfl
@[simp] theorem State.logRead_opk (v : HostData) : (s.logRead v).opk = s.opk := rfl
@[simp] theorem State.logRead_cmdl (v : HostData) : (s.logRead v).cmdl = s.cmdl := rfl
@[simp] theorem State.logRead_ph (v : HostData) : (s.logRead v).ph = s.ph := rfl
@[simp] theorem State.logRead_idx (v : HostData) : (s.logRead v).idx = s.idx := rfl
@[simp] theorem State.logRead_trace (v : HostData) : (s.logRead v).trace = s.trace := rfl
@[simp] theorem State.logRead_client (v : HostData) : (s.logRead v).client = { s.client with reads := s.client.reads ++ [v] } := rfl
@[simp] theorem State.logRead_transport (v : HostData) : (s.logRead v).transport = s.transport := rfl
@[simp] theorem State.logRead_turns (v : HostData) : (s.logRead v).turns = s.turns := rfl
@[simp] theorem State.logRead_chip (v : HostData) : (s.logRead v).chip = s.chip := rfl
@[simp] theorem State.logRead_tick (v : HostData) : (s.logRead v).tick = s.tick := rfl

/-! ### `takeTurn` -/

@[simp] theorem State.takeTurn_op : (s.takeTurn).op = s.op := rfl
@[simp] theorem State.takeTurn_status : (s.takeTurn).status = s.status := rfl
@[simp] theorem State.takeTurn_tmo : (s.takeTurn).tmo = s.tmo := rfl
@[simp] theorem State.takeTurn_rxn : (s.takeTurn).rxn = s.rxn := rfl
@[simp] theorem State.takeTurn_txn : (s.takeTurn).txn = s.txn := rfl
@[simp] theorem State.takeTurn_att : (s.takeTurn).att = s.att := rfl
@[simp] theorem State.takeTurn_limit : (s.takeTurn).limit = s.limit := rfl
@[simp] theorem State.takeTurn_statb : (s.takeTurn).statb = s.statb := rfl
@[simp] theorem State.takeTurn_param : (s.takeTurn).param = s.param := rfl
@[simp] theorem State.takeTurn_mem : (s.takeTurn).mem = s.mem := rfl
@[simp] theorem State.takeTurn_opk : (s.takeTurn).opk = s.opk := rfl
@[simp] theorem State.takeTurn_cmdl : (s.takeTurn).cmdl = s.cmdl := rfl
@[simp] theorem State.takeTurn_ph : (s.takeTurn).ph = s.ph := rfl
@[simp] theorem State.takeTurn_idx : (s.takeTurn).idx = s.idx := rfl
@[simp] theorem State.takeTurn_trace : (s.takeTurn).trace = s.trace := rfl
@[simp] theorem State.takeTurn_client : (s.takeTurn).client = s.client := rfl
@[simp] theorem State.takeTurn_transport : (s.takeTurn).transport = s.transport := rfl
@[simp] theorem State.takeTurn_turns : (s.takeTurn).turns = s.turns.tail := rfl
@[simp] theorem State.takeTurn_chip : (s.takeTurn).chip = s.chip := rfl
@[simp] theorem State.takeTurn_tick : (s.takeTurn).tick = s.tick + 1 := rfl

/-! ### `withHostOp` -/

@[simp] theorem State.withHostOp_op (o : HostOp) : (s.withHostOp o).op = s.op := rfl
@[simp] theorem State.withHostOp_status (o : HostOp) : (s.withHostOp o).status = s.status := rfl
@[simp] theorem State.withHostOp_tmo (o : HostOp) : (s.withHostOp o).tmo = s.tmo := rfl
@[simp] theorem State.withHostOp_rxn (o : HostOp) : (s.withHostOp o).rxn = s.rxn := rfl
@[simp] theorem State.withHostOp_txn (o : HostOp) : (s.withHostOp o).txn = s.txn := rfl
@[simp] theorem State.withHostOp_att (o : HostOp) : (s.withHostOp o).att = s.att := rfl
@[simp] theorem State.withHostOp_limit (o : HostOp) : (s.withHostOp o).limit = s.limit := rfl
@[simp] theorem State.withHostOp_statb (o : HostOp) : (s.withHostOp o).statb = s.statb := rfl
@[simp] theorem State.withHostOp_param (o : HostOp) : (s.withHostOp o).param = s.param := rfl
@[simp] theorem State.withHostOp_mem (o : HostOp) : (s.withHostOp o).mem = s.mem := rfl
@[simp] theorem State.withHostOp_opk (o : HostOp) : (s.withHostOp o).opk = s.opk := rfl
@[simp] theorem State.withHostOp_cmdl (o : HostOp) : (s.withHostOp o).cmdl = s.cmdl := rfl
@[simp] theorem State.withHostOp_ph (o : HostOp) : (s.withHostOp o).ph = s.ph := rfl
@[simp] theorem State.withHostOp_idx (o : HostOp) : (s.withHostOp o).idx = s.idx := rfl
@[simp] theorem State.withHostOp_trace (o : HostOp) : (s.withHostOp o).trace = s.trace := rfl
@[simp] theorem State.withHostOp_client (o : HostOp) : (s.withHostOp o).client = { s.client with program := o :: s.client.program, call := none } := rfl
@[simp] theorem State.withHostOp_transport (o : HostOp) : (s.withHostOp o).transport = s.transport := rfl
@[simp] theorem State.withHostOp_turns (o : HostOp) : (s.withHostOp o).turns = .host :: s.turns := rfl
@[simp] theorem State.withHostOp_chip (o : HostOp) : (s.withHostOp o).chip = s.chip := rfl
@[simp] theorem State.withHostOp_tick (o : HostOp) : (s.withHostOp o).tick = s.tick := rfl

/-! ### `resetBlock` -/

@[simp] theorem State.resetBlock_op : (s.resetBlock).op = 0 := rfl
@[simp] theorem State.resetBlock_status : (s.resetBlock).status = Status.reset := rfl
@[simp] theorem State.resetBlock_tmo : (s.resetBlock).tmo = 1000 := rfl
@[simp] theorem State.resetBlock_rxn : (s.resetBlock).rxn = 0 := rfl
@[simp] theorem State.resetBlock_txn : (s.resetBlock).txn = 0 := rfl
@[simp] theorem State.resetBlock_att : (s.resetBlock).att = 0 := rfl
@[simp] theorem State.resetBlock_limit : (s.resetBlock).limit = 0 := rfl
@[simp] theorem State.resetBlock_statb : (s.resetBlock).statb = 0 := rfl
@[simp] theorem State.resetBlock_param : (s.resetBlock).param = s.param := rfl
@[simp] theorem State.resetBlock_mem : (s.resetBlock).mem = [] := rfl
@[simp] theorem State.resetBlock_opk : (s.resetBlock).opk = .none := rfl
@[simp] theorem State.resetBlock_cmdl : (s.resetBlock).cmdl = 0 := rfl
@[simp] theorem State.resetBlock_ph : (s.resetBlock).ph = false := rfl
@[simp] theorem State.resetBlock_idx : (s.resetBlock).idx = 0 := rfl
@[simp] theorem State.resetBlock_trace : (s.resetBlock).trace = s.csRelease.trace := rfl
@[simp] theorem State.resetBlock_client : (s.resetBlock).client = s.client := rfl
@[simp] theorem State.resetBlock_transport : (s.resetBlock).transport = s.transport := rfl
@[simp] theorem State.resetBlock_turns : (s.resetBlock).turns = s.turns := rfl
@[simp] theorem State.resetBlock_chip : (s.resetBlock).chip = s.chip := rfl
@[simp] theorem State.resetBlock_tick : (s.resetBlock).tick = s.tick := rfl

/-! ### `beginRead` -/

@[simp] theorem State.beginRead_op : (s.beginRead).op = s.op := rfl
@[simp] theorem State.beginRead_status : (s.beginRead).status = { s.status with fsm := .readHdr } := rfl
@[simp] theorem State.beginRead_tmo : (s.beginRead).tmo = s.tmo := rfl
@[simp] theorem State.beginRead_rxn : (s.beginRead).rxn = 0 := rfl
@[simp] theorem State.beginRead_txn : (s.beginRead).txn = s.txn := rfl
@[simp] theorem State.beginRead_att : (s.beginRead).att = s.att := rfl
@[simp] theorem State.beginRead_limit : (s.beginRead).limit = s.limit := rfl
@[simp] theorem State.beginRead_statb : (s.beginRead).statb = s.statb := rfl
@[simp] theorem State.beginRead_param : (s.beginRead).param = s.param := rfl
@[simp] theorem State.beginRead_mem : (s.beginRead).mem = s.mem := rfl
@[simp] theorem State.beginRead_opk : (s.beginRead).opk = s.opk := rfl
@[simp] theorem State.beginRead_cmdl : (s.beginRead).cmdl = s.cmdl := rfl
@[simp] theorem State.beginRead_ph : (s.beginRead).ph = s.ph := rfl
@[simp] theorem State.beginRead_idx : (s.beginRead).idx = 0 := rfl
@[simp] theorem State.beginRead_trace : (s.beginRead).trace = s.trace := rfl
@[simp] theorem State.beginRead_client : (s.beginRead).client = s.client := rfl
@[simp] theorem State.beginRead_transport : (s.beginRead).transport = s.transport := rfl
@[simp] theorem State.beginRead_turns : (s.beginRead).turns = s.turns := rfl
@[simp] theorem State.beginRead_chip : (s.beginRead).chip = s.chip := rfl
@[simp] theorem State.beginRead_tick : (s.beginRead).tick = s.tick := rfl

/-! ### `beginCall` -/

@[simp] theorem State.beginCall_op (k : CallKind) (c : Byte) (d : List Byte) (tmo : BitVec 16) :
    (s.beginCall k c d tmo).op = s.op := rfl
@[simp] theorem State.beginCall_status (k : CallKind) (c : Byte) (d : List Byte) (tmo : BitVec 16) :
    (s.beginCall k c d tmo).status = s.status := rfl
@[simp] theorem State.beginCall_tmo (k : CallKind) (c : Byte) (d : List Byte) (tmo : BitVec 16) :
    (s.beginCall k c d tmo).tmo = s.tmo := rfl
@[simp] theorem State.beginCall_rxn (k : CallKind) (c : Byte) (d : List Byte) (tmo : BitVec 16) :
    (s.beginCall k c d tmo).rxn = s.rxn := rfl
@[simp] theorem State.beginCall_txn (k : CallKind) (c : Byte) (d : List Byte) (tmo : BitVec 16) :
    (s.beginCall k c d tmo).txn = s.txn := rfl
@[simp] theorem State.beginCall_att (k : CallKind) (c : Byte) (d : List Byte) (tmo : BitVec 16) :
    (s.beginCall k c d tmo).att = s.att := rfl
@[simp] theorem State.beginCall_limit (k : CallKind) (c : Byte) (d : List Byte) (tmo : BitVec 16) :
    (s.beginCall k c d tmo).limit = s.limit := rfl
@[simp] theorem State.beginCall_statb (k : CallKind) (c : Byte) (d : List Byte) (tmo : BitVec 16) :
    (s.beginCall k c d tmo).statb = s.statb := rfl
@[simp] theorem State.beginCall_param (k : CallKind) (c : Byte) (d : List Byte) (tmo : BitVec 16) :
    (s.beginCall k c d tmo).param = s.param := rfl
@[simp] theorem State.beginCall_mem (k : CallKind) (c : Byte) (d : List Byte) (tmo : BitVec 16) :
    (s.beginCall k c d tmo).mem = s.mem := rfl
@[simp] theorem State.beginCall_opk (k : CallKind) (c : Byte) (d : List Byte) (tmo : BitVec 16) :
    (s.beginCall k c d tmo).opk = s.opk := rfl
@[simp] theorem State.beginCall_cmdl (k : CallKind) (c : Byte) (d : List Byte) (tmo : BitVec 16) :
    (s.beginCall k c d tmo).cmdl = s.cmdl := rfl
@[simp] theorem State.beginCall_ph (k : CallKind) (c : Byte) (d : List Byte) (tmo : BitVec 16) :
    (s.beginCall k c d tmo).ph = s.ph := rfl
@[simp] theorem State.beginCall_idx (k : CallKind) (c : Byte) (d : List Byte) (tmo : BitVec 16) :
    (s.beginCall k c d tmo).idx = s.idx := rfl
@[simp] theorem State.beginCall_trace (k : CallKind) (c : Byte) (d : List Byte) (tmo : BitVec 16) :
    (s.beginCall k c d tmo).trace = s.trace := rfl
@[simp] theorem State.beginCall_transport (k : CallKind) (c : Byte) (d : List Byte) (tmo : BitVec 16) :
    (s.beginCall k c d tmo).transport = s.transport := rfl
@[simp] theorem State.beginCall_turns (k : CallKind) (c : Byte) (d : List Byte) (tmo : BitVec 16) :
    (s.beginCall k c d tmo).turns = s.turns := rfl
@[simp] theorem State.beginCall_chip (k : CallKind) (c : Byte) (d : List Byte) (tmo : BitVec 16) :
    (s.beginCall k c d tmo).chip = s.chip := rfl
@[simp] theorem State.beginCall_tick (k : CallKind) (c : Byte) (d : List Byte) (tmo : BitVec 16) :
    (s.beginCall k c d tmo).tick = s.tick := rfl
@[simp] theorem State.beginCall_call (k : CallKind) (c : Byte) (d : List Byte) (tmo : BitVec 16) :
    (s.beginCall k c d tmo).client.call =
      some { kind := k, cmd := c, payload := d, timeoutMs := tmo, phase := .saveBus, saved := s.transport, got := [] } := rfl

/-! ### `csRelease`: only the trace and STATUS.CS -/

@[simp] theorem State.csRelease_op : s.csRelease.op = s.op := by
  unfold State.csRelease; split <;> rfl
@[simp] theorem State.csRelease_tmo : s.csRelease.tmo = s.tmo := by
  unfold State.csRelease; split <;> rfl
@[simp] theorem State.csRelease_rxn : s.csRelease.rxn = s.rxn := by
  unfold State.csRelease; split <;> rfl
@[simp] theorem State.csRelease_txn : s.csRelease.txn = s.txn := by
  unfold State.csRelease; split <;> rfl
@[simp] theorem State.csRelease_att : s.csRelease.att = s.att := by
  unfold State.csRelease; split <;> rfl
@[simp] theorem State.csRelease_limit : s.csRelease.limit = s.limit := by
  unfold State.csRelease; split <;> rfl
@[simp] theorem State.csRelease_statb : s.csRelease.statb = s.statb := by
  unfold State.csRelease; split <;> rfl
@[simp] theorem State.csRelease_param : s.csRelease.param = s.param := by
  unfold State.csRelease; split <;> rfl
@[simp] theorem State.csRelease_mem : s.csRelease.mem = s.mem := by
  unfold State.csRelease; split <;> rfl
@[simp] theorem State.csRelease_opk : s.csRelease.opk = s.opk := by
  unfold State.csRelease; split <;> rfl
@[simp] theorem State.csRelease_cmdl : s.csRelease.cmdl = s.cmdl := by
  unfold State.csRelease; split <;> rfl
@[simp] theorem State.csRelease_ph : s.csRelease.ph = s.ph := by
  unfold State.csRelease; split <;> rfl
@[simp] theorem State.csRelease_idx : s.csRelease.idx = s.idx := by
  unfold State.csRelease; split <;> rfl
@[simp] theorem State.csRelease_client : s.csRelease.client = s.client := by
  unfold State.csRelease; split <;> rfl
@[simp] theorem State.csRelease_transport : s.csRelease.transport = s.transport := by
  unfold State.csRelease; split <;> rfl
@[simp] theorem State.csRelease_turns : s.csRelease.turns = s.turns := by
  unfold State.csRelease; split <;> rfl
@[simp] theorem State.csRelease_chip : s.csRelease.chip = s.chip := by
  unfold State.csRelease; split <;> rfl
@[simp] theorem State.csRelease_tick : s.csRelease.tick = s.tick := by
  unfold State.csRelease; split <;> rfl

theorem State.csRelease_of_released (h : s.status.cs = false) : s.csRelease = s := by
  simp [State.csRelease, h]

theorem State.csRelease_of_asserted (h : s.status.cs = true) :
    s.csRelease = { s with trace := s.trace ++ [.csDeassert], status := { s.status with cs := false } } := by
  simp [State.csRelease, h]

@[simp] theorem State.csRelease_status : s.csRelease.status = { s.status with cs := false } := by
  cases h : s.status.cs
  · rw [State.csRelease_of_released s h, ← h]
  · rw [State.csRelease_of_asserted s h]

theorem State.csRelease_trace :
    s.csRelease.trace = if s.status.cs then s.trace ++ [.csDeassert] else s.trace := by
  cases h : s.status.cs
  · rw [State.csRelease_of_released s h]; rfl
  · rw [State.csRelease_of_asserted s h]; rfl

/-! ### `finish`: OPK, STATUS, and the trace when chip-select was asserted -/

@[simp] theorem State.finish_opk (ok : Bool) (e : Err) : (s.finish ok e).opk = .none := rfl
@[simp] theorem State.finish_trace (ok : Bool) (e : Err) : (s.finish ok e).trace = s.csRelease.trace := rfl

@[simp] theorem State.finish_op (ok : Bool) (e : Err) : (s.finish ok e).op = s.op := by
  simp [State.finish]
@[simp] theorem State.finish_tmo (ok : Bool) (e : Err) : (s.finish ok e).tmo = s.tmo := by
  simp [State.finish]
@[simp] theorem State.finish_rxn (ok : Bool) (e : Err) : (s.finish ok e).rxn = s.rxn := by
  simp [State.finish]
@[simp] theorem State.finish_txn (ok : Bool) (e : Err) : (s.finish ok e).txn = s.txn := by
  simp [State.finish]
@[simp] theorem State.finish_att (ok : Bool) (e : Err) : (s.finish ok e).att = s.att := by
  simp [State.finish]
@[simp] theorem State.finish_limit (ok : Bool) (e : Err) : (s.finish ok e).limit = s.limit := by
  simp [State.finish]
@[simp] theorem State.finish_statb (ok : Bool) (e : Err) : (s.finish ok e).statb = s.statb := by
  simp [State.finish]
@[simp] theorem State.finish_param (ok : Bool) (e : Err) : (s.finish ok e).param = s.param := by
  simp [State.finish]
@[simp] theorem State.finish_mem (ok : Bool) (e : Err) : (s.finish ok e).mem = s.mem := by
  simp [State.finish]
@[simp] theorem State.finish_cmdl (ok : Bool) (e : Err) : (s.finish ok e).cmdl = s.cmdl := by
  simp [State.finish]
@[simp] theorem State.finish_ph (ok : Bool) (e : Err) : (s.finish ok e).ph = s.ph := by
  simp [State.finish]
@[simp] theorem State.finish_idx (ok : Bool) (e : Err) : (s.finish ok e).idx = s.idx := by
  simp [State.finish]
@[simp] theorem State.finish_client (ok : Bool) (e : Err) : (s.finish ok e).client = s.client := by
  simp [State.finish]
@[simp] theorem State.finish_transport (ok : Bool) (e : Err) : (s.finish ok e).transport = s.transport := by
  simp [State.finish]
@[simp] theorem State.finish_turns (ok : Bool) (e : Err) : (s.finish ok e).turns = s.turns := by
  simp [State.finish]
@[simp] theorem State.finish_chip (ok : Bool) (e : Err) : (s.finish ok e).chip = s.chip := by
  simp [State.finish]
@[simp] theorem State.finish_tick (ok : Bool) (e : Err) : (s.finish ok e).tick = s.tick := by
  simp [State.finish]

/-- What `Finish` leaves in STATUS, every field (60_exceptions.md R226). -/
@[simp] theorem State.finish_status (ok : Bool) (e : Err) :
    (s.finish ok e).status =
      { s.status with
        busy := false
        done := true
        ok := ok
        err := if ok then .noError else e
        cs := false
        fsm := if ok then .success else .failed } := by
  simp [State.finish]

theorem State.succeed_eq : s.succeed = s.finish true .noError := rfl
theorem State.fail_eq (e : Err) : s.fail e = s.finish false e := rfl

/-- `Finish` when chip-select is released: no event. -/
theorem State.finish_of_released (h : s.status.cs = false) (ok : Bool) (e : Err) :
    s.finish ok e =
      { s with
        opk := .none
        status := { s.status with
          busy := false
          done := true
          ok := ok
          err := if ok then .noError else e
          fsm := if ok then .success else .failed } } := by
  simp [State.finish, State.csRelease_of_released s h]

/-! ### `guardBusy` -/

theorem State.guardBusy_busy (h : s.status.busy = true) (f : State → State) :
    s.guardBusy f = { s with status := { s.status with rej := true } } := by
  simp [State.guardBusy, h]

theorem State.guardBusy_free (h : s.status.busy = false) (f : State → State) : s.guardBusy f = f s := by
  simp [State.guardBusy, h]

end Sys2Proof.Machine
end

