-- ==== Sys2Proof/Laws/Memory.lean ====
section
/-! SUPPORT. The buffers: a byte written is the byte read, every other byte is kept, the canonical form is kept. -/

namespace Sys2Proof.Machine

theorem Memory.get_set (off a : Nat) (b : Byte) (m : Memory) :
    Memory.get a (Memory.set off b m) = if a = off then some b else Memory.get a m := by
  induction m with
  | nil => by_cases ha : a = off <;> simp [Memory.set, Memory.get, ha, Ne.symm]
  | cons c rest ih =>
    unfold Memory.set
    by_cases ha : a = off
    · subst ha
      split
      · simp [Memory.get]
      · split
        · simp [Memory.get]
        · rename_i h; rw [Memory.get, if_neg (by omega), ih, if_pos rfl, if_pos rfl]
    · split
      · simp [Memory.get, Ne.symm ha]
      · split
        · rw [Memory.get, if_neg (by simpa using Ne.symm ha), Memory.get, if_neg (by omega)]
        · rw [Memory.get, Memory.get, ih, if_neg ha]

theorem Memory.mem_set (off : Nat) (b : Byte) (m : Memory) (c : Host.Cell) (h : c ∈ Memory.set off b m) :
    c = (off, b) ∨ c ∈ m := by
  induction m with
  | nil => simpa [Memory.set] using h
  | cons d rest ih =>
    unfold Memory.set at h
    split at h
    · simpa using h
    · split at h
      · rcases List.mem_cons.mp h with h | h
        · exact .inl h
        · exact .inr (by simp [h])
      · rcases List.mem_cons.mp h with h | h
        · exact .inr (by simp [h])
        · rcases ih h with h | h
          · exact .inl h
          · exact .inr (by simp [h])

theorem Memory.rising_set (off : Nat) (b : Byte) (m : Memory) (h : m.Pairwise (fun x y => x.1 < y.1)) :
    (Memory.set off b m).Pairwise (fun x y => x.1 < y.1) := by
  induction m with
  | nil => simp [Memory.set]
  | cons d rest ih =>
    obtain ⟨hd, hrest⟩ := List.pairwise_cons.mp h
    unfold Memory.set
    split
    · rename_i hlt
      refine List.pairwise_cons.mpr ⟨fun x hx => ?_, h⟩
      rcases List.mem_cons.mp hx with rfl | hx
      · exact hlt
      · exact Nat.lt_trans hlt (hd x hx)
    · split
      · rename_i heq
        exact List.pairwise_cons.mpr ⟨fun x hx => by have := hd x hx; simpa [heq] using this, hrest⟩
      · rename_i h1 h2
        refine List.pairwise_cons.mpr ⟨fun x hx => ?_, ih hrest⟩
        rcases Memory.mem_set off b rest x hx with rfl | hx
        · simp only; omega
        · exact hd x hx

/-- A write at a buffer offset keeps the canonical form. -/
theorem Memory.wf_set {off : Nat} {b : Byte} {m : Memory} (h : Memory.wf m) (ho : isBuffer off = true) :
    Memory.wf (Memory.set off b m) := by
  refine ⟨Memory.rising_set off b m h.1, fun c hc => ?_⟩
  rcases Memory.mem_set off b m c hc with rfl | hc
  · exact ho
  · exact h.2 c hc

theorem Memory.get_setRange (bs : List Byte) (off a : Nat) (m : Memory) :
    Memory.get a (Memory.setRange off bs m) =
      if off ≤ a ∧ a < off + bs.length then bs[a - off]? else Memory.get a m := by
  induction bs generalizing off m with
  | nil => rw [Memory.setRange, if_neg (by simp)]
  | cons b rest ih =>
    rw [Memory.setRange, ih (off + 1), Memory.get_set off a b m]
    by_cases h1 : a = off
    · subst h1; simp
    · by_cases h2 : off + 1 ≤ a ∧ a < off + 1 + rest.length
      · rw [if_pos h2, if_pos (by simp; omega)]
        have : a - off = (a - (off + 1)) + 1 := by omega
        rw [this, List.getElem?_cons_succ]
      · rw [if_neg h2, if_neg h1, if_neg (by simp; omega)]

/-- Writing consecutive buffer bytes keeps the canonical form. -/
theorem Memory.wf_setRange {bs : List Byte} {off : Nat} {m : Memory} (h : Memory.wf m)
    (ho : ∀ i, i < bs.length → isBuffer (off + i) = true) : Memory.wf (Memory.setRange off bs m) := by
  induction bs generalizing off m with
  | nil => exact h
  | cons b rest ih =>
    refine ih (Memory.wf_set h (by simpa using ho 0 (by simp))) (fun i hi => ?_)
    have := ho (i + 1) (by simp; omega)
    rwa [Nat.add_comm i 1, ← Nat.add_assoc] at this

/-! ### Bytes of a state -/

/-- A byte that is listed reads as listed, in every step. -/
theorem State.readByte_of_get {s : State} {off : Nat} {b : Byte} (h : Memory.get off s.mem = some b) :
    s.readByte off = b := by
  simp [State.readByte, h]

theorem State.readByte_congr {s t : State} {off : Nat} (hm : Memory.get off t.mem = Memory.get off s.mem)
    (ht : t.tick = s.tick) : t.readByte off = s.readByte off := by
  simp [State.readByte, hm, ht]

/-- A listed byte reads the same in two states that list the same there, whatever their ticks. -/
theorem State.readByte_congr_of_listed {s t : State} {off : Nat} (hm : Memory.get off t.mem = Memory.get off s.mem)
    (hl : (Memory.get off s.mem).isSome = true) : t.readByte off = s.readByte off := by
  obtain ⟨b, hb⟩ := Option.isSome_iff_exists.mp hl
  rw [State.readByte_of_get hb, State.readByte_of_get (hm.trans hb)]

@[simp] theorem State.readBytes_length (s : State) (off n : Nat) : (s.readBytes off n).length = n := by
  simp [State.readBytes]

theorem State.readBytes_getElem? (s : State) (off n i : Nat) :
    (s.readBytes off n)[i]? = if i < n then some (s.readByte (off + i)) else none := by
  by_cases h : i < n <;> simp [State.readBytes, h]

theorem State.readBytes_congr {s t : State} {off n : Nat}
    (h : ∀ i, i < n → t.readByte (off + i) = s.readByte (off + i)) : t.readBytes off n = s.readBytes off n := by
  simp only [State.readBytes]
  exact List.map_congr_left (fun i hi => h i (List.mem_range.mp hi))

/-- The bytes of a range just written are the bytes written. -/
theorem State.readBytes_setRange {s t : State} {bs : List Byte} {off : Nat}
    (ht : t.mem = Memory.setRange off bs s.mem) :
    t.readBytes off bs.length = bs := by
  apply List.ext_getElem?
  intro i
  rw [State.readBytes_getElem?]
  by_cases hi : i < bs.length
  · have hg : Memory.get (off + i) t.mem = some bs[i] := by
      rw [ht, Memory.get_setRange bs off (off + i) s.mem, if_pos (by omega)]
      simp [hi]
    rw [if_pos hi, State.readByte_of_get hg]
    simp [hi]
  · rw [if_neg hi, List.getElem?_eq_none (by omega)]

end Sys2Proof.Machine
end

