-- ==== Sys2Proof/Laws/Codec.lean ====
section
/-! SUPPORT. The checksum generator, the frame functions, and what each codec operation can answer. -/

namespace Sys2Proof.Machine

/-! ### Sums modulo 256 -/

theorem sum8_append (a b : List Byte) : sum8 (a ++ b) = sum8 a + sum8 b := by
  induction a with
  | nil => simp [sum8]
  | cons x xs ih => simp only [List.cons_append, sum8, ih, BitVec.add_assoc]

theorem neg8_eq (v : Byte) : neg8 v = -v := by
  apply BitVec.eq_of_toNat_eq
  simp [neg8, BitVec.toNat_neg]

theorem sum8_toNat (s : List Byte) : (sum8 s).toNat = (s.map BitVec.toNat).sum % 256 := by
  induction s with
  | nil => rfl
  | cons b bs ih => simp only [sum8, BitVec.toNat_add, ih, List.map_cons, List.sum_cons]; omega

theorem add_neg8 (v : Byte) : v + neg8 v = 0 := by
  rw [neg8_eq]; simp

/-- A sequence followed by its DCS sums to 0 (40_codec.md R120). -/
theorem sum8_dcs (s : List Byte) : sum8 (s ++ [dcs s]) = 0 := by
  rw [sum8_append]
  simp [sum8, dcs, add_neg8]

/-! ### Frames -/

@[simp] theorem encodeFrame_length (c : Byte) (d : List Byte) : (encodeFrame c d).length = d.length + 9 := by
  simp [encodeFrame]

@[simp] theorem payload_length (s : State) (plen : Byte) : (s.payload plen).length = plen.toNat := by
  simp [State.payload]

@[simp] theorem received_length (s : State) : s.received.length = s.rxn.toNat := by
  simp [State.received]

/-- DecodeFrame only reports the two frame errors (60_exceptions.md R223). -/
theorem decodeFrame_err {r : List Byte} {t : Byte} {e : Err} (h : decodeFrame r t = .err e) :
    e = .framing ∨ e = .checksum := by
  unfold decodeFrame at h
  split at h
  · split at h
    · cases h; exact .inl rfl
    · split at h
      · cases h; exact .inl rfl
      · split at h
        · cases h; exact .inl rfl
        · split at h
          · cases h; exact .inl rfl
          · unfold decodeBody at h
            split at h
            · split at h
              · cases h; exact .inl rfl
              · split at h
                · cases h; exact .inr rfl
                · cases h
            · cases h; exact .inl rfl
  · cases h; exact .inl rfl

/-- What a successful decode says of the bytes (R123): a good header, enough bytes, the expected TFI, a zero sum. -/
theorem decodeFrame_ok {r : List Byte} {t cmd plen : Byte} (h : decodeFrame r t = .ok cmd plen) :
    ∃ len lcsByte rest,
      r = preamble :: start1 :: start2 :: len :: lcsByte :: t :: cmd :: rest ∧ len + lcsByte = 0 ∧ ¬ len < 2 ∧
        len.toNat ≤ rest.length + 1 ∧ sum8 ((t :: cmd :: rest).take (len.toNat + 1)) = 0 ∧ plen = len - 2 := by
  unfold decodeFrame at h
  split at h
  · rename_i b0 b1 b2 len lcsByte body
    split at h
    · cases h
    · rename_i h0
      split at h
      · cases h
      · rename_i h1
        split at h
        · cases h
        · rename_i h2
          split at h
          · cases h
          · rename_i h3
            unfold decodeBody at h
            split at h
            · rename_i tfi c rest
              split at h
              · cases h
              · rename_i h4
                split at h
                · cases h
                · rename_i h5
                  cases h
                  simp only [ne_eq, not_or, not_not] at h0 h1 h4 h5
                  obtain ⟨rfl, rfl, rfl⟩ := h0
                  subst h4
                  refine ⟨len, lcsByte, rest, rfl, h1, h2, ?_, h5, rfl⟩
                  simp only [List.length_cons] at h3
                  omega
            · cases h
  · cases h

/-! ### The shape of a frame -/

/-- A frame with a good header and enough bytes leaves TFI and DCS to check. -/
theorem decodeFrame_header {len l tfi cmd t : Byte} {rest : List Byte} (h1 : len + l = 0) (h2 : 2 ≤ len.toNat)
    (h3 : len.toNat ≤ rest.length + 1) :
    decodeFrame (preamble :: start1 :: start2 :: len :: l :: tfi :: cmd :: rest) t =
      if tfi ≠ t then .err .framing
      else if sum8 ((tfi :: cmd :: rest).take (len.toNat + 1)) ≠ 0 then .err .checksum
      else .ok cmd (len - 2) := by
  have hl : ¬ len < 2 := by simp [BitVec.lt_def]; omega
  simp only [decodeFrame, decodeBody]
  rw [if_neg (by simp), if_neg (by simpa using h1), if_neg hl, if_neg (by simp; omega)]

/-- The encoder's sequence with its header split off. -/
theorem encodeFrame_eq (c : Byte) (d : List Byte) :
    encodeFrame c d =
      preamble :: start1 :: start2 :: lenOf d.length :: lcs (lenOf d.length) :: tfiToChip :: c ::
        (d ++ [dcs (tfiToChip :: c :: d), postamble]) := by
  simp [encodeFrame]

/-! ### The size checks -/

/-- A payload that is not too long fits a frame: PLEN ≤ MAX_PLEN ≤ 253 (00_scope.md R7). -/
theorem plen_le_of_not_tooLong {s : State} {plen : Byte} (h : s.tooLong plen = false) : plen.toNat ≤ 253 := by
  have h1 : ¬ s.param.maxPlen.val < plen.toNat := by simpa [State.tooLong] using h
  have := s.param.maxPlen.isLt
  omega

/-- Where an encoded frame lies: inside TXF. -/
theorem isBuffer_txf {i : Nat} (h : i < txfSize) : isBuffer (txfBase + i) = true := by
  simp [isBuffer, txfBase, txfSize, pbufBase, pbufSize, rxfBase, rxfSize, ackrBase, ackrSize] at *; omega

theorem isBuffer_rxf {i : Nat} (h : i < rxfSize) : isBuffer (rxfBase + i) = true := by
  simp [isBuffer, txfBase, txfSize, pbufBase, pbufSize, rxfBase, rxfSize, ackrBase, ackrSize] at *; omega

theorem isBuffer_ackr {i : Nat} (h : i < ackrSize) : isBuffer (ackrBase + i) = true := by
  simp [isBuffer, txfBase, txfSize, pbufBase, pbufSize, rxfBase, rxfSize, ackrBase, ackrSize] at *; omega

/-- The encoder keeps the canonical form. -/
theorem State.encodeInto_wf {s : State} (h : Memory.wf s.mem) (cmd : Byte) {plen : Byte} (hl : s.tooLong plen = false) :
    Memory.wf (s.encodeInto cmd plen).mem := by
  have := plen_le_of_not_tooLong hl
  refine Memory.wf_setRange h (fun i hi => isBuffer_txf ?_)
  simp only [encodeFrame_length, payload_length] at hi
  simp only [txfSize]; omega

/-- TXN after the encoder, exact (40_codec.md R130). -/
theorem State.encodeInto_txn_toNat {s : State} (cmd : Byte) {plen : Byte} (hl : s.tooLong plen = false) :
    (s.encodeInto cmd plen).txn.toNat = plen.toNat + 9 := by
  have := plen_le_of_not_tooLong hl
  simp only [State.encodeInto_txn, BitVec.toNat_ofNat]
  omega

/-- TXF holds the encoder's frame. -/
theorem State.encodeInto_get {s : State} (cmd plen : Byte) (off : Nat) :
    Memory.get off (s.encodeInto cmd plen).mem =
      if txfBase ≤ off ∧ off < txfBase + (plen.toNat + 9) then (encodeFrame cmd (s.payload plen))[off - txfBase]?
      else Memory.get off s.mem := by
  simp [Memory.get_setRange]

/-! ### What each codec operation can answer -/

theorem performEncode_cases (cmd plen : Byte) (s : State) :
    (s.tooLong plen = true ∧ performEncode cmd plen s = s.fail .invalidArg) ∨
      (s.tooLong plen = false ∧ performEncode cmd plen s = (s.encodeInto cmd plen).succeed) := by
  unfold performEncode
  cases h : s.tooLong plen <;> simp

theorem performDecode_cases (t : Byte) (s : State) :
    (∃ e, e ≠ .noError ∧ performDecode t s = s.fail e) ∨
      (∃ cmd plen, decodeFrame s.received t = .ok cmd plen ∧
        performDecode t s = (s.setResponse cmd plen).succeed) := by
  unfold performDecode
  split
  · exact .inl ⟨.invalidArg, by decide, rfl⟩
  · split
    · rename_i cmd plen h; exact .inr ⟨cmd, plen, h, rfl⟩
    · rename_i e h
      refine .inl ⟨e, ?_, rfl⟩
      rcases decodeFrame_err h with rfl | rfl <;> decide

theorem performCheckAck_cases (s : State) :
    (∃ e, e ≠ .noError ∧ performCheckAck s = s.fail e) ∨ performCheckAck s = s.succeed := by
  unfold performCheckAck
  split
  · exact .inl ⟨.invalidArg, by decide, rfl⟩
  · split
    · exact .inr rfl
    · exact .inl ⟨.ackMismatch, by decide, rfl⟩

theorem performSend_cases (k : OpKind) (cmd plen : Byte) (s : State) :
    (s.tooLong plen = true ∧ performSend k cmd plen s = s.fail .invalidArg) ∨
      (s.tooLong plen = false ∧ performSend k cmd plen s = (s.encodeInto cmd plen).startBus k cmd) := by
  unfold performSend
  cases h : s.tooLong plen <;> simp

end Sys2Proof.Machine
end

