-- ==== Sys2Proof/Laws/Engine.lean ====
section
/-! SUPPORT. Everything an engine step can do, said once: the relation `EngineMove`, one constructor per row of the
transition table (41_handshake.md R151), and `engineStep_move`, which every proof about the engine cites. -/

namespace Sys2Proof.Machine

/-! ### The poll bound -/

/-- `attemptsOf` is at least 1 (00_scope.md R7). -/
theorem Param.attemptsOf_pos (p : Param) (tmo : BitVec 16) : 0 < (p.attemptsOf tmo).toNat := by
  unfold Param.attemptsOf
  split
  · rename_i n _
    have := n.isLt
    simp only [BitVec.toNat_ofNat]; omega
  · unfold Param.defaultAttempts
    split
    · have := (Config.attemptsNoDelay tmo).isLt
      simp only [BitVec.toNat_ofNat]; omega
    · simp only [BitVec.toNat_ofNat]; omega

/-! ### Names of intermediate states -/

/-- START's own effect, before its next state is chosen (R153). -/
def State.bracketed (s : State) : State := { s.csAssert with idx := 0 }

/-- SENDING's own effect (R154). -/
def State.sentByte (s : State) : State :=
  { s.emit (.write (s.readByte (txfBase + s.idx.toNat))) with idx := s.idx + 1 }

/-- AWAIT_READY's own effect (R157). -/
def State.polled (s : State) : State :=
  { s.busRead .status with statb := s.chipAnswer .status, att := s.att + 1 }

/-- VERIFY_ACK's own effect (R159). -/
def State.ackReceived (s : State) : State :=
  { (s.busRead .data).writeByte (ackrBase + s.idx.toNat) (s.chipAnswer .data) with idx := s.idx + 1 }

/-! ### The moves -/

inductive EngineMove (s : State) : State → Prop where
  | quiet (h : s.status.busy = false) : EngineMove s s
  | startSend (hb : s.status.busy = true) (hf : s.status.fsm = .start) (hk : s.opk.sends = true) :
      EngineMove s (s.bracketed.setFsm .sending)
  | startPoll (hb : s.status.busy = true) (hf : s.status.fsm = .start) (hk : s.opk.sends = false)
      (hr : s.param.repoll = true) : EngineMove s (s.bracketed.beginPoll true)
  | startRead (hb : s.status.busy = true) (hf : s.status.fsm = .start) (hk : s.opk.sends = false)
      (hr : s.param.repoll = false) : EngineMove s s.bracketed.beginRead
  | send (hb : s.status.busy = true) (hf : s.status.fsm = .sending) (hi : s.idx.toNat < txfSize)
      (hl : s.idx + 1 ≠ s.txn) : EngineMove s s.sentByte
  | sendLast (hb : s.status.busy = true) (hf : s.status.fsm = .sending) (hi : s.idx.toNat < txfSize)
      (hl : s.idx + 1 = s.txn) : EngineMove s (s.sentByte.beginPoll false)
  | readyAck (hb : s.status.busy = true) (hf : s.status.fsm = .awaitReady) (hr : isReady (s.chipAnswer .status) = true)
      (hp : s.ph = false) : EngineMove s { s.polled.setFsm .verifyAck with idx := 0 }
  | readyRead (hb : s.status.busy = true) (hf : s.status.fsm = .awaitReady) (hr : isReady (s.chipAnswer .status) = true)
      (hp : s.ph = true) : EngineMove s s.polled.beginRead
  | timeout (hb : s.status.busy = true) (hf : s.status.fsm = .awaitReady)
      (hr : isReady (s.chipAnswer .status) = false) (hl : s.att + 1 = s.limit) : EngineMove s (s.polled.fail .timeout)
  | notReady (hb : s.status.busy = true) (hf : s.status.fsm = .awaitReady)
      (hr : isReady (s.chipAnswer .status) = false) (hl : s.att + 1 ≠ s.limit) : EngineMove s (s.polled.setFsm .pollWait)
  | delay (hb : s.status.busy = true) (hf : s.status.fsm = .pollWait) :
      EngineMove s ((s.emit .delay).setFsm .awaitReady)
  | ackByte (hb : s.status.busy = true) (hf : s.status.fsm = .verifyAck) (hi : s.idx.toNat < ackrSize)
      (hl : s.idx + 1 ≠ 6) : EngineMove s s.ackReceived
  | ackBad (hb : s.status.busy = true) (hf : s.status.fsm = .verifyAck) (hi : s.idx.toNat < ackrSize)
      (hl : s.idx + 1 = 6) (hm : ackMatch s.ackReceived.ackBytes = false) :
      EngineMove s (s.ackReceived.fail .ackMismatch)
  | ackGood (hb : s.status.busy = true) (hf : s.status.fsm = .verifyAck) (hi : s.idx.toNat < ackrSize)
      (hl : s.idx + 1 = 6) (hm : ackMatch s.ackReceived.ackBytes = true) (hk : s.opk = .sendCheckAck) :
      EngineMove s s.ackReceived.succeed
  | ackThenPoll (hb : s.status.busy = true) (hf : s.status.fsm = .verifyAck) (hi : s.idx.toNat < ackrSize)
      (hl : s.idx + 1 = 6) (hm : ackMatch s.ackReceived.ackBytes = true) (hk : s.opk ≠ .sendCheckAck)
      (hr : s.param.repoll = true) : EngineMove s { s.ackReceived.beginPoll true with idx := 0 }
  | ackThenRead (hb : s.status.busy = true) (hf : s.status.fsm = .verifyAck) (hi : s.idx.toNat < ackrSize)
      (hl : s.idx + 1 = 6) (hm : ackMatch s.ackReceived.ackBytes = true) (hk : s.opk ≠ .sendCheckAck)
      (hr : s.param.repoll = false) : EngineMove s s.ackReceived.beginRead
  | header (hb : s.status.busy = true) (hf : s.status.fsm = .readHdr) (hi : s.idx.toNat < rxfSize)
      (hl : s.idx + 1 ≠ 5) : EngineMove s s.receiveByte
  | headerGood (hb : s.status.busy = true) (hf : s.status.fsm = .readHdr) (hi : s.idx.toNat < rxfSize)
      (hl : s.idx + 1 = 5) (hg : headerGood (s.receiveByte.readBytes rxfBase 5) = true) :
      EngineMove s (s.receiveByte.setFsm .readBody)
  | headerBad (hb : s.status.busy = true) (hf : s.status.fsm = .readHdr) (hi : s.idx.toNat < rxfSize)
      (hl : s.idx + 1 = 5) (hg : headerGood (s.receiveByte.readBytes rxfBase 5) = false) :
      EngineMove s (s.receiveByte.fail .framing)
  | body (hb : s.status.busy = true) (hf : s.status.fsm = .readBody) (hi : s.idx.toNat < rxfSize)
      (hl : s.idx.toNat + 1 ≠ (s.receiveByte.readByte (rxfBase + 3)).toNat + 7) : EngineMove s s.receiveByte
  | bodyBad (hb : s.status.busy = true) (hf : s.status.fsm = .readBody) (hi : s.idx.toNat < rxfSize)
      (hl : s.idx.toNat + 1 = (s.receiveByte.readByte (rxfBase + 3)).toNat + 7)
      (e : Err) (he : e ≠ .noError) (hc : s.receiveByte.completeResponse = s.receiveByte.fail e) :
      EngineMove s (s.receiveByte.fail e)
  | bodyGood (hb : s.status.busy = true) (hf : s.status.fsm = .readBody) (hi : s.idx.toNat < rxfSize)
      (hl : s.idx.toNat + 1 = (s.receiveByte.readByte (rxfBase + 3)).toNat + 7)
      (cmd plen : Byte) (hd : decodeFrame s.receiveByte.received tfiToHost = .ok cmd plen) (he : cmd = s.cmdl + 1) :
      EngineMove s (s.receiveByte.setResponse cmd plen).succeed

/-- What the end of a response can be (R163). -/
theorem State.completeResponse_cases (s : State) :
    (∃ e, e ≠ .noError ∧ s.completeResponse = s.fail e) ∨
      (∃ cmd plen, decodeFrame s.received tfiToHost = .ok cmd plen ∧ cmd = s.cmdl + 1 ∧
        s.completeResponse = (s.setResponse cmd plen).succeed) := by
  unfold State.completeResponse
  split
  · rename_i e h
    refine .inl ⟨e, ?_, rfl⟩
    rcases decodeFrame_err h with rfl | rfl <;> decide
  · rename_i cmd plen h
    split
    · exact .inl ⟨.framing, by decide, rfl⟩
    · rename_i he
      exact .inr ⟨cmd, plen, h, by simpa using he, rfl⟩

theorem engineStart_move {s t : State} (hb : s.status.busy = true) (hf : s.status.fsm = .start)
    (h : engineStart s = .next t) : EngineMove s t := by
  unfold engineStart at h
  rcases hr : s.param.repoll <;> rcases hk : s.opk <;> simp only [hk, hr, Bool.false_eq_true, ↓reduceIte] at h <;> cases h
  · exact .startRead hb hf (by simp [OpKind.sends, hk]) hr
  · exact .startSend hb hf (by simp [OpKind.sends, hk])
  · exact .startRead hb hf (by simp [OpKind.sends, hk]) hr
  · exact .startSend hb hf (by simp [OpKind.sends, hk])
  · exact .startPoll hb hf (by simp [OpKind.sends, hk]) hr
  · exact .startSend hb hf (by simp [OpKind.sends, hk])
  · exact .startPoll hb hf (by simp [OpKind.sends, hk]) hr
  · exact .startSend hb hf (by simp [OpKind.sends, hk])

theorem engineSending_move {s t : State} (hb : s.status.busy = true) (hf : s.status.fsm = .sending)
    (h : engineSending s = .next t) : EngineMove s t := by
  unfold engineSending at h
  split at h
  · rename_i hi
    by_cases hl : s.idx + 1 = s.txn
    · simp only [if_pos hl] at h; cases h; exact .sendLast hb hf hi hl
    · simp only [if_neg hl] at h; cases h; exact .send hb hf hi hl
  · cases h

theorem engineAwaitReady_move {s t : State} (hb : s.status.busy = true) (hf : s.status.fsm = .awaitReady)
    (h : engineAwaitReady s = .next t) : EngineMove s t := by
  unfold engineAwaitReady at h
  cases hr : isReady (s.chipAnswer .status)
  · by_cases hl : s.att + 1 = s.limit
    · simp only [hr, Bool.false_eq_true, ↓reduceIte, if_pos hl] at h; cases h; exact .timeout hb hf hr hl
    · simp only [hr, Bool.false_eq_true, ↓reduceIte, if_neg hl] at h; cases h; exact .notReady hb hf hr hl
  · simp only [hr, ↓reduceIte] at h
    cases hp : s.ph <;> simp only [hp, Bool.false_eq_true, ↓reduceIte] at h <;> cases h
    · exact .readyAck hb hf hr hp
    · exact .readyRead hb hf hr hp

theorem engineVerifyAck_move {s t : State} (hb : s.status.busy = true) (hf : s.status.fsm = .verifyAck)
    (h : engineVerifyAck s = .next t) : EngineMove s t := by
  unfold engineVerifyAck at h
  split at h
  · rename_i hi
    have hs : ({ (s.busRead .data).writeByte (ackrBase + s.idx.toNat) (s.chipAnswer .data) with idx := s.idx + 1 } : State)
        = s.ackReceived := rfl
    simp only [hs] at h
    by_cases hl : s.idx + 1 = 6
    · rw [if_pos hl] at h
      cases hm : ackMatch s.ackReceived.ackBytes
      · simp only [hm, Bool.false_eq_true, not_false_eq_true, ↓reduceIte] at h; cases h; exact .ackBad hb hf hi hl hm
      · simp only [hm, not_true_eq_false, ↓reduceIte] at h
        by_cases hk : s.opk = .sendCheckAck
        · rw [if_pos hk] at h; cases h; exact .ackGood hb hf hi hl hm hk
        · rw [if_neg hk, State.afterAck] at h
          cases hr : s.param.repoll
          · rw [show s.ackReceived.param = s.param from rfl, hr] at h
            cases h; exact .ackThenRead hb hf hi hl hm hk hr
          · rw [show s.ackReceived.param = s.param from rfl, hr] at h
            cases h; exact .ackThenPoll hb hf hi hl hm hk hr
    · rw [if_neg hl] at h; cases h; exact .ackByte hb hf hi hl
  · cases h

theorem engineReadHdr_move {s t : State} (hb : s.status.busy = true) (hf : s.status.fsm = .readHdr)
    (h : engineReadHdr s = .next t) : EngineMove s t := by
  unfold engineReadHdr at h
  split at h
  · rename_i hi
    by_cases hl : s.idx + 1 = 5
    · cases hg : Machine.headerGood (s.receiveByte.readBytes rxfBase 5)
      · simp only [if_pos hl, hg, Bool.false_eq_true, ↓reduceIte] at h; cases h; exact .headerBad hb hf hi hl hg
      · simp only [if_pos hl, hg, ↓reduceIte] at h; cases h; exact .headerGood hb hf hi hl hg
    · simp only [if_neg hl] at h; cases h; exact .header hb hf hi hl
  · cases h

theorem engineReadBody_move {s t : State} (hb : s.status.busy = true) (hf : s.status.fsm = .readBody)
    (h : engineReadBody s = .next t) : EngineMove s t := by
  unfold engineReadBody at h
  split at h
  · rename_i hi
    by_cases hl : s.idx.toNat + 1 = (s.receiveByte.readByte (rxfBase + 3)).toNat + 7
    · simp only [if_pos hl] at h
      cases h
      rcases s.receiveByte.completeResponse_cases with ⟨e, he, hc⟩ | ⟨cmd, plen, hd, he, hc⟩
      · rw [hc]; exact .bodyBad hb hf hi hl e he hc
      · rw [hc]; exact .bodyGood hb hf hi hl cmd plen hd he
    · simp only [if_neg hl] at h; cases h; exact .body hb hf hi hl
  · cases h

/-- Everything an engine step that answers a next state can have done. -/
theorem engineStep_move {s t : State} (h : engineStep s = .next t) : EngineMove s t := by
  unfold engineStep at h
  split at h
  · rename_i hb
    split at h
    · rename_i hf; exact engineStart_move hb hf h
    · rename_i hf; exact engineSending_move hb hf h
    · rename_i hf; exact engineAwaitReady_move hb hf h
    · rename_i hf; unfold enginePollWait at h; cases h; exact .delay hb hf
    · rename_i hf; exact engineVerifyAck_move hb hf h
    · rename_i hf; exact engineReadHdr_move hb hf h
    · rename_i hf; exact engineReadBody_move hb hf h
    · cases h
    · cases h
    · cases h
  · rename_i hb
    cases h
    exact .quiet (by simpa using hb)

/-! ### The transition of each state -/

theorem engineStep_quiet {s : State} (hb : s.status.busy = false) : engineStep s = .next s := by
  rw [engineStep, if_neg (by simp [hb])]

theorem engineStep_start {s : State} (hb : s.status.busy = true) (hf : s.status.fsm = .start) :
    engineStep s = engineStart s := by
  rw [engineStep, if_pos hb, hf]

theorem engineStep_sending {s : State} (hb : s.status.busy = true) (hf : s.status.fsm = .sending) :
    engineStep s = engineSending s := by
  rw [engineStep, if_pos hb, hf]

theorem engineStep_awaitReady {s : State} (hb : s.status.busy = true) (hf : s.status.fsm = .awaitReady) :
    engineStep s = engineAwaitReady s := by
  rw [engineStep, if_pos hb, hf]

theorem engineStep_pollWait {s : State} (hb : s.status.busy = true) (hf : s.status.fsm = .pollWait) :
    engineStep s = enginePollWait s := by
  rw [engineStep, if_pos hb, hf]

theorem engineStep_verifyAck {s : State} (hb : s.status.busy = true) (hf : s.status.fsm = .verifyAck) :
    engineStep s = engineVerifyAck s := by
  rw [engineStep, if_pos hb, hf]

theorem engineStep_readHdr {s : State} (hb : s.status.busy = true) (hf : s.status.fsm = .readHdr) :
    engineStep s = engineReadHdr s := by
  rw [engineStep, if_pos hb, hf]

theorem engineStep_readBody {s : State} (hb : s.status.busy = true) (hf : s.status.fsm = .readBody) :
    engineStep s = engineReadBody s := by
  rw [engineStep, if_pos hb, hf]

/-! ### The fields of the intermediate states -/

@[simp] theorem State.bracketed_op (s : State) : s.bracketed.op = s.op := rfl
@[simp] theorem State.bracketed_status (s : State) : s.bracketed.status = { s.status with cs := true } := rfl
@[simp] theorem State.bracketed_tmo (s : State) : s.bracketed.tmo = s.tmo := rfl
@[simp] theorem State.bracketed_rxn (s : State) : s.bracketed.rxn = s.rxn := rfl
@[simp] theorem State.bracketed_txn (s : State) : s.bracketed.txn = s.txn := rfl
@[simp] theorem State.bracketed_att (s : State) : s.bracketed.att = s.att := rfl
@[simp] theorem State.bracketed_limit (s : State) : s.bracketed.limit = s.limit := rfl
@[simp] theorem State.bracketed_statb (s : State) : s.bracketed.statb = s.statb := rfl
@[simp] theorem State.bracketed_param (s : State) : s.bracketed.param = s.param := rfl
@[simp] theorem State.bracketed_mem (s : State) : s.bracketed.mem = s.mem := rfl
@[simp] theorem State.bracketed_opk (s : State) : s.bracketed.opk = s.opk := rfl
@[simp] theorem State.bracketed_cmdl (s : State) : s.bracketed.cmdl = s.cmdl := rfl
@[simp] theorem State.bracketed_ph (s : State) : s.bracketed.ph = s.ph := rfl
@[simp] theorem State.bracketed_idx (s : State) : s.bracketed.idx = 0 := rfl
@[simp] theorem State.bracketed_trace (s : State) : s.bracketed.trace = s.trace ++ [.csAssert] := rfl
@[simp] theorem State.bracketed_client (s : State) : s.bracketed.client = s.client := rfl
@[simp] theorem State.bracketed_transport (s : State) : s.bracketed.transport = s.transport := rfl
@[simp] theorem State.bracketed_turns (s : State) : s.bracketed.turns = s.turns := rfl
@[simp] theorem State.bracketed_chip (s : State) : s.bracketed.chip = s.chip := rfl
@[simp] theorem State.bracketed_tick (s : State) : s.bracketed.tick = s.tick := rfl

@[simp] theorem State.sentByte_op (s : State) : s.sentByte.op = s.op := rfl
@[simp] theorem State.sentByte_status (s : State) : s.sentByte.status = s.status := rfl
@[simp] theorem State.sentByte_tmo (s : State) : s.sentByte.tmo = s.tmo := rfl
@[simp] theorem State.sentByte_rxn (s : State) : s.sentByte.rxn = s.rxn := rfl
@[simp] theorem State.sentByte_txn (s : State) : s.sentByte.txn = s.txn := rfl
@[simp] theorem State.sentByte_att (s : State) : s.sentByte.att = s.att := rfl
@[simp] theorem State.sentByte_limit (s : State) : s.sentByte.limit = s.limit := rfl
@[simp] theorem State.sentByte_statb (s : State) : s.sentByte.statb = s.statb := rfl
@[simp] theorem State.sentByte_param (s : State) : s.sentByte.param = s.param := rfl
@[simp] theorem State.sentByte_mem (s : State) : s.sentByte.mem = s.mem := rfl
@[simp] theorem State.sentByte_opk (s : State) : s.sentByte.opk = s.opk := rfl
@[simp] theorem State.sentByte_cmdl (s : State) : s.sentByte.cmdl = s.cmdl := rfl
@[simp] theorem State.sentByte_ph (s : State) : s.sentByte.ph = s.ph := rfl
@[simp] theorem State.sentByte_idx (s : State) : s.sentByte.idx = s.idx + 1 := rfl
@[simp] theorem State.sentByte_trace (s : State) : s.sentByte.trace = s.trace ++ [.write (s.readByte (txfBase + s.idx.toNat))] := rfl
@[simp] theorem State.sentByte_client (s : State) : s.sentByte.client = s.client := rfl
@[simp] theorem State.sentByte_transport (s : State) : s.sentByte.transport = s.transport := rfl
@[simp] theorem State.sentByte_turns (s : State) : s.sentByte.turns = s.turns := rfl
@[simp] theorem State.sentByte_chip (s : State) : s.sentByte.chip = s.chip := rfl
@[simp] theorem State.sentByte_tick (s : State) : s.sentByte.tick = s.tick := rfl

@[simp] theorem State.polled_op (s : State) : s.polled.op = s.op := rfl
@[simp] theorem State.polled_status (s : State) : s.polled.status = s.status := rfl
@[simp] theorem State.polled_tmo (s : State) : s.polled.tmo = s.tmo := rfl
@[simp] theorem State.polled_rxn (s : State) : s.polled.rxn = s.rxn := rfl
@[simp] theorem State.polled_txn (s : State) : s.polled.txn = s.txn := rfl
@[simp] theorem State.polled_att (s : State) : s.polled.att = s.att + 1 := rfl
@[simp] theorem State.polled_limit (s : State) : s.polled.limit = s.limit := rfl
@[simp] theorem State.polled_statb (s : State) : s.polled.statb = s.chipAnswer .status := rfl
@[simp] theorem State.polled_param (s : State) : s.polled.param = s.param := rfl
@[simp] theorem State.polled_mem (s : State) : s.polled.mem = s.mem := rfl
@[simp] theorem State.polled_opk (s : State) : s.polled.opk = s.opk := rfl
@[simp] theorem State.polled_cmdl (s : State) : s.polled.cmdl = s.cmdl := rfl
@[simp] theorem State.polled_ph (s : State) : s.polled.ph = s.ph := rfl
@[simp] theorem State.polled_idx (s : State) : s.polled.idx = s.idx := rfl
@[simp] theorem State.polled_trace (s : State) : s.polled.trace = s.trace ++ [.read .status (s.chipAnswer .status)] := rfl
@[simp] theorem State.polled_client (s : State) : s.polled.client = s.client := rfl
@[simp] theorem State.polled_transport (s : State) : s.polled.transport = s.transport := rfl
@[simp] theorem State.polled_turns (s : State) : s.polled.turns = s.turns := rfl
@[simp] theorem State.polled_chip (s : State) : s.polled.chip = s.chip.tail := rfl
@[simp] theorem State.polled_tick (s : State) : s.polled.tick = s.tick := rfl

@[simp] theorem State.ackReceived_op (s : State) : s.ackReceived.op = s.op := rfl
@[simp] theorem State.ackReceived_status (s : State) : s.ackReceived.status = s.status := rfl
@[simp] theorem State.ackReceived_tmo (s : State) : s.ackReceived.tmo = s.tmo := rfl
@[simp] theorem State.ackReceived_rxn (s : State) : s.ackReceived.rxn = s.rxn := rfl
@[simp] theorem State.ackReceived_txn (s : State) : s.ackReceived.txn = s.txn := rfl
@[simp] theorem State.ackReceived_att (s : State) : s.ackReceived.att = s.att := rfl
@[simp] theorem State.ackReceived_limit (s : State) : s.ackReceived.limit = s.limit := rfl
@[simp] theorem State.ackReceived_statb (s : State) : s.ackReceived.statb = s.statb := rfl
@[simp] theorem State.ackReceived_param (s : State) : s.ackReceived.param = s.param := rfl
@[simp] theorem State.ackReceived_mem (s : State) : s.ackReceived.mem = Memory.set (ackrBase + s.idx.toNat) (s.chipAnswer .data) s.mem := rfl
@[simp] theorem State.ackReceived_opk (s : State) : s.ackReceived.opk = s.opk := rfl
@[simp] theorem State.ackReceived_cmdl (s : State) : s.ackReceived.cmdl = s.cmdl := rfl
@[simp] theorem State.ackReceived_ph (s : State) : s.ackReceived.ph = s.ph := rfl
@[simp] theorem State.ackReceived_idx (s : State) : s.ackReceived.idx = s.idx + 1 := rfl
@[simp] theorem State.ackReceived_trace (s : State) : s.ackReceived.trace = s.trace ++ [.read .data (s.chipAnswer .data)] := rfl
@[simp] theorem State.ackReceived_client (s : State) : s.ackReceived.client = s.client := rfl
@[simp] theorem State.ackReceived_transport (s : State) : s.ackReceived.transport = s.transport := rfl
@[simp] theorem State.ackReceived_turns (s : State) : s.ackReceived.turns = s.turns := rfl
@[simp] theorem State.ackReceived_chip (s : State) : s.ackReceived.chip = s.chip.tail := rfl
@[simp] theorem State.ackReceived_tick (s : State) : s.ackReceived.tick = s.tick := rfl

end Sys2Proof.Machine
end

