-- ==== Sys2Proof/Laws/Invariant.lean ====
section
/-! SUPPORT. How the invariant is built: once for a state in which an operation has just ended, once for a state in which one
runs; and that every move of the engine keeps it. -/

namespace Sys2Proof.Machine

/-! ### The trace -/

theorem bracket_append (tr : List BusEvent) (e : BusEvent) : bracket (tr ++ [e]) = bracketStep (bracket tr) e := by
  simp [bracket]

theorem bracket_csRelease {s : State} (h : bracket s.trace = some s.status.cs) :
    bracket s.csRelease.trace = some false := by
  rw [State.csRelease_trace]
  cases hc : s.status.cs
  · simpa [hc] using h
  · simp [bracket_append, h, hc, bracketStep]

/-! ### Building the invariant -/

/-- `Finish` gives the invariant from what it does not touch. -/
theorem Inv.finish {s : State} (hm : Memory.wf s.mem) (ha : s.att.toNat ≤ s.limit.toNat)
    (hl : bracket s.trace = some s.status.cs) (ok : Bool) (e : Err) (he : ok = false → e ≠ .noError)
    (hr : ok = false → s.status.respCmd = 0 ∧ s.status.respLen = 0) : Inv (s.finish ok e) := by
  constructor
  · simpa using hm
  · cases ok <;> simp [Fsm.running]
  · simp
  · cases ok <;> simp
  · cases ok <;> simp
  · cases ok
    · simpa using he rfl
    · simp
  · simp
  · intro h; cases ok
    · simpa using hr rfl
    · simp at h
  · simpa using ha
  · simp
  · simpa using bracket_csRelease hl
  · cases ok <;> simp [State.stage]

/-- The flags of a running operation. -/
structure Running (s : State) : Prop where
  busy : s.status.busy = true
  opk : s.opk ≠ .none
  done : s.status.done = false
  ok : s.status.ok = false
  err : s.status.err = .noError
  response : s.status.respCmd = 0 ∧ s.status.respLen = 0

theorem Inv.running {s : State} (hi : Inv s) (hb : s.status.busy = true) : Running s := by
  have hr : s.status.fsm.running = true := hi.busy.symm.trans hb
  have h1 : s.status.fsm ≠ .success := by intro h; simp [h, Fsm.running] at hr
  have h2 : s.status.fsm ≠ .failed := by intro h; simp [h, Fsm.running] at hr
  have he := hi.err
  refine ⟨hb, ?_, ?_, ?_, ?_, hi.response h1⟩
  · have := hi.opk; rw [hb] at this; simpa using this.symm
  · rw [hi.done]; simp [h1, h2]
  · rw [hi.ok]; simp [h1]
  · simpa [h2] using he

/-- A running state has the invariant when its flags, bounds, line and stage are right. -/
theorem Inv.of_running {t : State} (hr : Running t) (hf : t.status.fsm.running = true) (hm : Memory.wf t.mem)
    (hc : t.status.cs = decide (t.status.fsm ≠ .start)) (ha : t.att.toNat ≤ t.limit.toNat) (hb : 0 < t.limit.toNat)
    (hl : bracket t.trace = some t.status.cs) (hs : t.stage) : Inv t := by
  have h1 : t.status.fsm ≠ .success := by intro h; simp [h, Fsm.running] at hf
  have h2 : t.status.fsm ≠ .failed := by intro h; simp [h, Fsm.running] at hf
  constructor
  · exact hm
  · rw [hr.busy, hf]
  · rw [hr.busy]; simp [hr.opk]
  · rw [hr.done]; simp [h1, h2]
  · rw [hr.ok]; simp [h1]
  · simp [hr.err, h2]
  · rw [hc, hr.busy]; simp
  · exact fun _ => hr.response
  · exact ha
  · exact fun _ => hb
  · exact hl
  · exact hs

/-! ### Parts of the stage -/

theorem State.listed_set {s t : State} {off n : Nat} {a : Nat} {b : Byte} (h : s.listed off n)
    (ht : t.mem = Memory.set a b s.mem) : t.listed off n := by
  intro i hi
  rw [ht, Memory.get_set]
  split
  · rfl
  · exact h i hi

/-- Listing `n` bytes and writing the next lists `n + 1`. -/
theorem State.listed_succ {s t : State} {off n : Nat} {b : Byte} (h : s.listed off n)
    (ht : t.mem = Memory.set (off + n) b s.mem) : t.listed off (n + 1) := by
  intro i hi
  rw [ht, Memory.get_set]
  split
  · rfl
  · exact h i (by omega)

theorem toNat_succ {x : BitVec 9} {n : Nat} (h : x.toNat < n) (hn : n ≤ 511) : (x + 1).toNat = x.toNat + 1 := by
  rw [BitVec.toNat_add]; simp; omega

theorem att_succ {a l : BitVec 16} (h : a.toNat < l.toNat) : (a + 1).toNat = a.toNat + 1 := by
  have := l.isLt
  rw [BitVec.toNat_add]; simp; omega

/-- A bracketed, running state that leaves START has chip-select asserted. -/
theorem Inv.cs_true {s : State} (hi : Inv s) (hb : s.status.busy = true) (hf : s.status.fsm ≠ .start) :
    s.status.cs = true := by
  rw [hi.cs, hb]; simp [hf]

/-- The bytes of a good header that is listed stay the same whatever else is written above them. -/
theorem readBytes_set_above {s t : State} {a : Nat} {b : Byte} (hl : s.listed rxfBase 5) (ha : rxfBase + 5 ≤ a)
    (ht : t.mem = Memory.set a b s.mem) : t.readBytes rxfBase 5 = s.readBytes rxfBase 5 := by
  refine State.readBytes_congr (fun i hi => State.readByte_congr_of_listed ?_ (hl i hi))
  rw [ht, Memory.get_set, if_neg (by omega)]

/-- A header that passes its checks announces at least TFI and CMD. -/
theorem headerGood_len {h : List Byte} (hg : headerGood h = true) : ∃ len, h[3]? = some len ∧ 2 ≤ len.toNat := by
  unfold headerGood at hg
  split at hg
  · rename_i b0 b1 b2 len lcsByte
    refine ⟨len, rfl, ?_⟩
    simp only [Bool.and_eq_true, Bool.not_eq_true', decide_eq_false_iff_not] at hg
    have := hg.2
    simp only [BitVec.lt_def] at this
    have h2 : (2 : Byte).toNat = 2 := rfl
    omega
  · cases hg

theorem headerGood_readByte {s : State} (hg : headerGood (s.readBytes rxfBase 5) = true) :
    2 ≤ (s.readByte (rxfBase + 3)).toNat := by
  obtain ⟨len, h1, h2⟩ := headerGood_len hg
  rw [State.readBytes_getElem?] at h1
  simp only [Nat.reduceLT, ↓reduceIte, Option.some.injEq] at h1
  rwa [h1]

/-! ### The engine keeps the invariant -/

theorem EngineMove.keeps_inv {s t : State} (hi : Inv s) (h : EngineMove s t) : Inv t := by
  have hst := hi.stage
  have hl := hi.line
  cases h with
  | quiet h => exact hi
  | startSend hb hf hk =>
    have hr := hi.running hb
    have hc : s.status.cs = false := by rw [hi.cs, hb, hf]; rfl
    simp only [State.stage, hf] at hst
    obtain ⟨h9, h262, hlist⟩ := hst.2 hk
    refine Inv.of_running ⟨hb, hr.opk, hr.done, hr.ok, hr.err, hr.response⟩ rfl hi.memory rfl hi.attempts (hi.bound hb)
      (by simp [bracket_append, hl, hc, bracketStep]) ?_
    exact ⟨hk, ⟨h9, h262, hlist⟩, by simp; omega⟩
  | startPoll hb hf hk hp =>
    have hr := hi.running hb
    have hc : s.status.cs = false := by rw [hi.cs, hb, hf]; rfl
    have hread : s.opk.reads = true := by
      have := hr.opk
      revert hk this; cases s.opk <;> decide
    refine Inv.of_running ⟨hb, hr.opk, hr.done, hr.ok, hr.err, hr.response⟩ rfl hi.memory rfl (by simp) (hi.bound hb)
      (by simp [bracket_append, hl, hc, bracketStep]) ?_
    simpa [State.stage] using ⟨hi.bound hb, hread, hp⟩
  | startRead hb hf hk hp =>
    have hr := hi.running hb
    have hc : s.status.cs = false := by rw [hi.cs, hb, hf]; rfl
    have hread : s.opk.reads = true := by
      have := hr.opk
      revert hk this; cases s.opk <;> decide
    refine Inv.of_running ⟨hb, hr.opk, hr.done, hr.ok, hr.err, hr.response⟩ rfl hi.memory rfl hi.attempts (hi.bound hb)
      (by simp [bracket_append, hl, hc, bracketStep]) ?_
    exact ⟨hread, by simp, fun i hi => by simp at hi, rfl⟩
  | send hb hf hx hn =>
    have hr := hi.running hb
    have hc := hi.cs_true hb (by simp [hf])
    simp only [State.stage, hf] at hst
    obtain ⟨hk, hfr, hlt⟩ := hst
    have hs := toNat_succ hx (by decide)
    refine Inv.of_running ⟨hb, hr.opk, hr.done, hr.ok, hr.err, hr.response⟩ (by simp [hf, Fsm.running]) hi.memory
      (by simp [hc, hf]) hi.attempts (hi.bound hb) (by simp [bracket_append, hl, hc, bracketStep]) ?_
    simp only [State.stage, State.sentByte_status, hf]
    refine ⟨hk, hfr, ?_⟩
    have : (s.idx + 1).toNat ≠ s.txn.toNat := fun h => hn (BitVec.eq_of_toNat_eq h)
    simp only [State.sentByte_idx, State.sentByte_txn]
    omega
  | sendLast hb hf hx hn =>
    have hr := hi.running hb
    have hc := hi.cs_true hb (by simp [hf])
    simp only [State.stage, hf] at hst
    refine Inv.of_running ⟨hb, hr.opk, hr.done, hr.ok, hr.err, hr.response⟩ rfl hi.memory
      (by simp [hc]) (by simp) (hi.bound hb) (by simp [bracket_append, hl, hc, bracketStep]) ?_
    simpa [State.stage] using ⟨hi.bound hb, hst.1⟩
  | readyAck hb hf hy hph =>
    have hr := hi.running hb
    have hc := hi.cs_true hb (by simp [hf])
    simp only [State.stage, hf] at hst
    obtain ⟨hlt, hp⟩ := hst
    have hs := att_succ hlt
    rw [hph] at hp
    exact Inv.of_running ⟨hb, hr.opk, hr.done, hr.ok, hr.err, hr.response⟩ rfl hi.memory
      (by simp [hc]) (by simp; omega) (hi.bound hb) (by simp [bracket_append, hl, hc, bracketStep])
      ⟨hp, Nat.zero_lt_succ _, fun i hi => by simp at hi⟩
  | readyRead hb hf hy hph =>
    have hr := hi.running hb
    have hc := hi.cs_true hb (by simp [hf])
    simp only [State.stage, hf] at hst
    obtain ⟨hlt, hp⟩ := hst
    have hs := att_succ hlt
    rw [hph] at hp
    exact Inv.of_running ⟨hb, hr.opk, hr.done, hr.ok, hr.err, hr.response⟩ rfl hi.memory
      (by simp [hc]) (by simp; omega) (hi.bound hb) (by simp [bracket_append, hl, hc, bracketStep])
      ⟨hp.1, Nat.zero_lt_succ _, fun i hi => by simp at hi, rfl⟩
  | timeout hb hf hy hn =>
    have hr := hi.running hb
    have hc := hi.cs_true hb (by simp [hf])
    refine Inv.finish (s := s.polled) hi.memory ?_ (by simp [bracket_append, hl, hc, bracketStep]) false _ (fun _ => by decide)
      (fun _ => hr.response)
    simp only [State.polled_att, State.polled_limit, hn, Nat.le_refl]
  | notReady hb hf hy hn =>
    have hr := hi.running hb
    have hc := hi.cs_true hb (by simp [hf])
    simp only [State.stage, hf] at hst
    obtain ⟨hlt, hp⟩ := hst
    have hs := att_succ hlt
    have hne : (s.att + 1).toNat ≠ s.limit.toNat := fun h => hn (BitVec.eq_of_toNat_eq h)
    refine Inv.of_running ⟨hb, hr.opk, hr.done, hr.ok, hr.err, hr.response⟩ rfl hi.memory
      (by simp [hc]) (by simp; omega) (hi.bound hb) (by simp [bracket_append, hl, hc, bracketStep]) ?_
    exact ⟨by simp; omega, hp⟩
  | delay hb hf =>
    have hr := hi.running hb
    have hc := hi.cs_true hb (by simp [hf])
    simp only [State.stage, hf] at hst
    exact Inv.of_running ⟨hb, hr.opk, hr.done, hr.ok, hr.err, hr.response⟩ rfl hi.memory
      (by simp [hc]) hi.attempts (hi.bound hb) (by simp [bracket_append, hl, hc, bracketStep]) hst
  | ackByte hb hf hx hn =>
    have hr := hi.running hb
    have hc := hi.cs_true hb (by simp [hf])
    simp only [State.stage, hf] at hst
    obtain ⟨hk, hlt, hlist⟩ := hst
    have hs := toNat_succ hx (by decide)
    have hne : (s.idx + 1).toNat ≠ 6 := fun h => hn (BitVec.eq_of_toNat_eq h)
    refine Inv.of_running ⟨hb, hr.opk, hr.done, hr.ok, hr.err, hr.response⟩ (by simp [hf, Fsm.running])
      (Memory.wf_set hi.memory (isBuffer_ackr hx))
      (by simp [hc, hf]) hi.attempts (hi.bound hb) (by simp [bracket_append, hl, hc, bracketStep]) ?_
    simp only [State.stage, State.ackReceived_status, hf]
    refine ⟨hk, by simp [ackrSize] at *; omega, ?_⟩
    simp only [State.ackReceived_idx, hs]
    exact State.listed_succ hlist rfl
  | ackBad hb hf hx hn hm =>
    have hr := hi.running hb
    have hc := hi.cs_true hb (by simp [hf])
    exact Inv.finish (s := s.ackReceived) (Memory.wf_set hi.memory (isBuffer_ackr hx)) hi.attempts
      (by simp [bracket_append, hl, hc, bracketStep]) false _ (fun _ => by decide) (fun _ => hr.response)
  | ackGood hb hf hx hn hm hk =>
    have hr := hi.running hb
    have hc := hi.cs_true hb (by simp [hf])
    exact Inv.finish (s := s.ackReceived) (Memory.wf_set hi.memory (isBuffer_ackr hx)) hi.attempts
      (by simp [bracket_append, hl, hc, bracketStep]) true _ (fun h => by cases h) (fun h => by cases h)
  | ackThenPoll hb hf hx hn hm hk hp =>
    have hr := hi.running hb
    have hc := hi.cs_true hb (by simp [hf])
    simp only [State.stage, hf] at hst
    have hread : s.opk.reads = true := by
      have := hst.1
      revert hk this; cases s.opk <;> decide
    refine Inv.of_running ⟨hb, hr.opk, hr.done, hr.ok, hr.err, hr.response⟩ rfl
      (Memory.wf_set hi.memory (isBuffer_ackr hx))
      (by simp [hc]) (by simp) (hi.bound hb) (by simp [bracket_append, hl, hc, bracketStep]) ?_
    simpa [State.stage] using ⟨hi.bound hb, hread, hp⟩
  | ackThenRead hb hf hx hn hm hk hp =>
    have hr := hi.running hb
    have hc := hi.cs_true hb (by simp [hf])
    simp only [State.stage, hf] at hst
    have hread : s.opk.reads = true := by
      have := hst.1
      revert hk this; cases s.opk <;> decide
    refine Inv.of_running ⟨hb, hr.opk, hr.done, hr.ok, hr.err, hr.response⟩ rfl
      (Memory.wf_set hi.memory (isBuffer_ackr hx))
      (by simp [hc]) hi.attempts (hi.bound hb) (by simp [bracket_append, hl, hc, bracketStep]) ?_
    exact ⟨hread, Nat.zero_lt_succ _, fun i hi => by simp at hi, rfl⟩
  | header hb hf hx hn =>
    have hr := hi.running hb
    have hc := hi.cs_true hb (by simp [hf])
    simp only [State.stage, hf] at hst
    obtain ⟨hk, hlt, hlist, -⟩ := hst
    have hs := toNat_succ hx (by decide)
    have hne : (s.idx + 1).toNat ≠ 5 := fun h => hn (BitVec.eq_of_toNat_eq h)
    refine Inv.of_running ⟨hb, hr.opk, hr.done, hr.ok, hr.err, hr.response⟩ (by simp [hf, Fsm.running])
      (Memory.wf_set hi.memory (isBuffer_rxf hx))
      (by simp [hc, hf]) hi.attempts (hi.bound hb) (by simp [bracket_append, hl, hc, bracketStep]) ?_
    simp only [State.stage, State.receiveByte_status, hf]
    refine ⟨hk, by simp; omega, ?_, rfl⟩
    simp only [State.receiveByte_idx, hs]
    exact State.listed_succ hlist rfl
  | headerGood hb hf hx hn hg =>
    have hr := hi.running hb
    have hc := hi.cs_true hb (by simp [hf])
    simp only [State.stage, hf] at hst
    obtain ⟨hk, hlt, hlist, -⟩ := hst
    refine Inv.of_running ⟨hb, hr.opk, hr.done, hr.ok, hr.err, hr.response⟩ rfl
      (Memory.wf_set hi.memory (isBuffer_rxf hx))
      (by simp [hc]) hi.attempts (hi.bound hb) (by simp [bracket_append, hl, hc, bracketStep]) ?_
    have h2 := headerGood_readByte hg
    have hs := toNat_succ hx (by decide)
    have hlist' : (s.receiveByte.setFsm .readBody).listed rxfBase (s.idx + 1).toNat := by
      rw [hs]; exact State.listed_succ hlist rfl
    have h5 : (s.idx + 1).toNat = 5 := by rw [hn]; rfl
    refine ⟨hk, Nat.le_of_eq h5.symm, rfl, hlist', hg, ?_⟩
    show (s.idx + 1).toNat < (s.receiveByte.readByte (rxfBase + 3)).toNat + 7
    omega
  | headerBad hb hf hx hn hg =>
    have hr := hi.running hb
    have hc := hi.cs_true hb (by simp [hf])
    exact Inv.finish (s := s.receiveByte) (Memory.wf_set hi.memory (isBuffer_rxf hx)) hi.attempts
      (by simp [bracket_append, hl, hc, bracketStep]) false _ (fun _ => by decide) (fun _ => hr.response)
  | body hb hf hx hn =>
    have hr := hi.running hb
    have hc := hi.cs_true hb (by simp [hf])
    simp only [State.stage, hf] at hst
    obtain ⟨hk, h5, -, hlist, hg, hlt⟩ := hst
    have hs := toNat_succ hx (by decide)
    have hsame : s.receiveByte.readBytes rxfBase 5 = s.readBytes rxfBase 5 :=
      readBytes_set_above (fun i hi => hlist i (by omega)) (by omega) rfl
    have hlen : s.receiveByte.readByte (rxfBase + 3) = s.readByte (rxfBase + 3) := by
      refine State.readByte_congr_of_listed ?_ (hlist 3 (by omega))
      rw [State.receiveByte_mem, Memory.get_set, if_neg (by omega)]
    refine Inv.of_running ⟨hb, hr.opk, hr.done, hr.ok, hr.err, hr.response⟩ (by simp [hf, Fsm.running])
      (Memory.wf_set hi.memory (isBuffer_rxf hx))
      (by simp [hc, hf]) hi.attempts (hi.bound hb) (by simp [bracket_append, hl, hc, bracketStep]) ?_
    simp only [State.stage, State.receiveByte_status, hf]
    refine ⟨hk, by simp only [State.receiveByte_idx]; omega, rfl, ?_, by rw [hsame]; exact hg, ?_⟩
    · simp only [State.receiveByte_idx, hs]
      exact State.listed_succ hlist rfl
    · simp only [State.receiveByte_idx]
      rw [hlen] at hn ⊢
      omega
  | bodyBad hb hf hx hn e he hd =>
    have hr := hi.running hb
    have hc := hi.cs_true hb (by simp [hf])
    exact Inv.finish (s := s.receiveByte) (Memory.wf_set hi.memory (isBuffer_rxf hx)) hi.attempts
      (by simp [bracket_append, hl, hc, bracketStep]) false _ (fun _ => he) (fun _ => hr.response)
  | bodyGood hb hf hx hn cmd plen hd he =>
    have hc := hi.cs_true hb (by simp [hf])
    exact Inv.finish (s := s.receiveByte.setResponse cmd plen) (Memory.wf_set hi.memory (isBuffer_rxf hx)) hi.attempts
      (by simp [bracket_append, hl, hc, bracketStep]) true _ (fun h => by cases h) (fun h => by cases h)

end Sys2Proof.Machine
end

