-- ==== Sys2Proof/Laws/HostPort.lean ====
section
/-! SUPPORT. The host's side, said once: the word of an operation as a number, what a host write at an offset can leave, what
an operation leaves, and what keeps the invariant. -/

namespace Sys2Proof

theorem append_toNat {m n : Nat} (x : BitVec m) (y : BitVec n) : (x ++ y).toNat = x.toNat * 2 ^ n + y.toNat := by
  rw [BitVec.toNat_append, ← Nat.shiftLeft_add_eq_or_of_lt y.isLt, Nat.shiftLeft_eq]

/-- The word of R90 as a number. -/
theorem opWordOf_toNat (opc : BitVec 4) (loop : Bool) (cmd plen : Byte) :
    (opWordOf opc loop cmd plen).toNat = 65536 * plen.toNat + 256 * cmd.toNat + 16 * loop.toNat + opc.toNat := by
  simp only [opWordOf, append_toNat, BitVec.toNat_ofBool, BitVec.toNat_ofNat]
  omega

end Sys2Proof

namespace Sys2Proof.Machine

/-! ### Offsets -/

@[simp] theorem regionOf_offset (r : Reg) : regionOf r.offset = .reg r := by cases r <;> decide

/-- A PBUF or RXF offset is a buffer's. -/
theorem isBuffer_of_region {off : Nat} (h : regionOf off = .pbuf ∨ regionOf off = .rxf) : isBuffer off = true := by
  unfold regionOf at h
  split at h
  · split at h <;> simp at h
  · split at h
    · rename_i h1; simp [isBuffer, h1]
    · split at h
      · simp at h
      · split at h
        · rename_i h1; simp [isBuffer, h1]
        · split at h <;> simp at h

/-! ### Outcomes -/

theorem andThen_next {o : Host.Outcome State Fault Refusal} {f : State → State} {t : State} (h : andThen o f = .next t) :
    ∃ s, o = .next s ∧ t = f s := by
  cases o <;> simp [andThen] at h
  exact ⟨_, rfl, h.symm⟩

/-! ### What keeps the invariant -/

/-- The invariant speaks of these fields only. -/
theorem Inv.congr {s t : State} (hi : Inv s) (h1 : t.status = s.status) (h2 : t.mem = s.mem) (h3 : t.opk = s.opk)
    (h4 : t.att = s.att) (h5 : t.limit = s.limit) (h6 : t.trace = s.trace) (h7 : t.txn = s.txn) (h8 : t.idx = s.idx)
    (h9 : t.ph = s.ph) (h10 : t.param = s.param) (h11 : t.rxn = s.rxn) : Inv t := by
  refine ⟨by rw [h2]; exact hi.memory, by rw [h1]; exact hi.busy, by rw [h1,h3]; exact hi.opk, by rw [h1]; exact hi.done, by rw [h1]; exact hi.ok, by rw [h1]; exact hi.err, by rw [h1]; exact hi.cs, by rw [h1]; exact hi.response, by rw [h4,h5]; exact hi.attempts, by rw [h1,h5]; exact hi.bound, by rw [h1,h6]; exact hi.line, ?_⟩
  · have hst := hi.stage
    have hrb : s.listed rxfBase 5 → ∀ i, i < 5 → t.readByte (rxfBase + i) = s.readByte (rxfBase + i) :=
      fun d i hi => State.readByte_congr_of_listed (by rw [h2]) (d i hi)
    unfold State.stage at hst ⊢
    simp only [h1, h3, h4, h5, h7, h8, h9, h10, h11, State.listed, State.frameReady, h2]
    split <;> rename_i hf <;> simp only [hf] at hst
    all_goals try exact hst
    obtain ⟨a, b, c, d, e, f⟩ := hst
    have d5 : s.listed rxfBase 5 := fun i hi => d i (by omega)
    refine ⟨a, b, c, d, ?_, ?_⟩
    · rw [State.readBytes_congr (hrb d5)]; exact e
    · rw [hrb d5 3 (by decide)]; exact f

theorem Inv.rejected {s : State} (hi : Inv s) : Inv s.rejected :=
  ⟨hi.memory, hi.busy, hi.opk, hi.done, hi.ok, hi.err, hi.cs, hi.response, hi.attempts, hi.bound, hi.line, hi.stage⟩

/-- With BUSY 0 chip-select is released and no bus operation is in progress. -/
theorem Inv.free {s : State} (hi : Inv s) (hb : s.status.busy = false) : s.status.cs = false ∧ s.opk = .none := by
  constructor
  · rw [hi.cs, hb]; rfl
  · have := hi.opk; rw [hb] at this; simpa using this.symm

theorem Inv.quiet {s : State} (hi : Inv s) (hb : s.status.busy = false) : s.quiet := ⟨hb, (hi.free hb).1⟩

theorem Inv.guardBusy {s : State} {f : State → State} (hi : Inv s) (hf : s.status.busy = false → Inv (f s)) :
    Inv (s.guardBusy f) := by
  cases hb : s.status.busy
  · rw [State.guardBusy_free s hb]; exact hf hb
  · rw [State.guardBusy_busy s hb]; exact hi.rejected

theorem Inv.acceptFail {s : State} (hi : Inv s) (v : Word) {e : Err} (he : e ≠ .noError) : Inv ((s.accept v).fail e) :=
  Inv.finish (s := s.accept v) hi.memory (Nat.zero_le _) hi.line false _ (fun _ => he) (fun _ => ⟨rfl, rfl⟩)

/-- A bus operation started on a quiet, freshly accepted state. -/
theorem Inv.startBus {s : State} (hm : Memory.wf s.mem) (hl : bracket s.trace = some false) (k : OpKind) (c : Byte)
    (hk : k ≠ .none) (hfr : k.sends = true → s.frameReady) (hcs : s.status.cs = false) (hd : s.status.done = false)
    (hok : s.status.ok = false) (he : s.status.err = .noError) (hr : s.status.respCmd = 0 ∧ s.status.respLen = 0)
    (ha : s.att = 0) : Inv (s.startBus k c) :=
  Inv.of_running ⟨rfl, hk, hd, hok, he, hr⟩ rfl hm hcs (by simp [ha]) (Param.attemptsOf_pos _ _)
    (by simpa [hcs] using hl) ⟨hk, hfr⟩

theorem State.encodeInto_frameReady {s : State} (c : Byte) {p : Byte} (h : s.tooLong p = false) :
    (s.encodeInto c p).frameReady := by
  have h1 := State.encodeInto_txn_toNat (s := s) c h
  have := plen_le_of_not_tooLong h
  refine ⟨by omega, by simp [txfSize]; omega, ?_⟩
  intro i hi
  rw [State.encodeInto_get, if_pos (by omega)]
  simp; omega
/-- A state with BUSY 0 stays in the invariant whatever happens to what the engine does not hold. -/
theorem Inv.free_congr {s t : State} (hi : Inv s) (hb : s.status.busy = false) (h1 : t.status = s.status)
    (hm : Memory.wf t.mem) (h3 : t.opk = s.opk) (h4 : t.att = s.att) (h5 : t.limit = s.limit) (h6 : t.trace = s.trace) :
    Inv t := by
  refine ⟨hm, by rw [h1]; exact hi.busy, by rw [h1, h3]; exact hi.opk, by rw [h1]; exact hi.done, by rw [h1]; exact hi.ok,
    by rw [h1]; exact hi.err, by rw [h1]; exact hi.cs, by rw [h1]; exact hi.response, by rw [h4, h5]; exact hi.attempts,
    by rw [h1, h5]; exact hi.bound, by rw [h1, h6]; exact hi.line, ?_⟩
  have hr := hi.busy
  rw [hb, ← h1] at hr
  unfold State.stage
  split <;> first | trivial | (rename_i hf; rw [hf] at hr; cases hr)

/-! ### Host writes -/

/-- What a host write at a window offset can leave. -/
inductive HostWrite (s : State) : State → Prop where
  | ignored : HostWrite s s
  | rejected (hb : s.status.busy = true) : HostWrite s s.rejected
  | tmo (hb : s.status.busy = false) (v : BitVec 16) : HostWrite s { s with tmo := v }
  | rxn (hb : s.status.busy = false) (v : BitVec 9) : HostWrite s { s with rxn := v }
  | byte (hb : s.status.busy = false) (off : Nat) (b : Byte) (ho : isBuffer off = true) : HostWrite s (s.writeByte off b)
  | operation (i : Instr) (t : State) (h : exec i s = .next t) : HostWrite s t
  | illegal (hb : s.status.busy = false) (v : Word) : HostWrite s ((s.accept v).fail .illegalOp)

/-- A write under the busy rule is rejected or accepted. -/
theorem guardBusy_cases (s : State) (f : State → State) :
    (s.status.busy = true ∧ s.guardBusy f = s.rejected) ∨ (s.status.busy = false ∧ s.guardBusy f = f s) := by
  cases hb : s.status.busy
  · exact .inr ⟨rfl, State.guardBusy_free s hb f⟩
  · exact .inl ⟨rfl, State.guardBusy_busy s hb f⟩

/-- Everything a host write that answers a next state can have done. -/
theorem windowWrite_cases {s t : State} {w : Width} {off : Nat} {v : HostData} (h : windowWrite w off v s = .next t) :
    HostWrite s t := by
  unfold windowWrite at h
  split at h
  · unfold opWrite at h
    split at h
    · exact .operation _ _ h
    · unfold illegalOp acceptOp at h; cases h
      rcases guardBusy_cases s (fun s => (s.accept (v.setWidth 32)).fail .illegalOp) with ⟨hb, h⟩ | ⟨hb, h⟩ <;> rw [h]
      · exact .rejected hb
      · exact .illegal hb _
  · cases h
    rcases guardBusy_cases s (fun s => { s with tmo := v.setWidth 16 }) with ⟨hb, h⟩ | ⟨hb, h⟩ <;> rw [h]
    · exact .rejected hb
    · exact .tmo hb _
  · cases h
    rcases guardBusy_cases s (fun s => { s with rxn := v.setWidth 9 }) with ⟨hb, h⟩ | ⟨hb, h⟩ <;> rw [h]
    · exact .rejected hb
    · exact .rxn hb _
  · rename_i hr
    cases h
    rcases guardBusy_cases s (fun s => s.writeByte off (v.setWidth 8)) with ⟨hb, h⟩ | ⟨hb, h⟩ <;> rw [h]
    · exact .rejected hb
    · exact .byte hb _ _ (isBuffer_of_region (.inl hr))
  · rename_i hr
    cases h
    rcases guardBusy_cases s (fun s => s.writeByte off (v.setWidth 8)) with ⟨hb, h⟩ | ⟨hb, h⟩ <;> rw [h]
    · exact .rejected hb
    · exact .byte hb _ _ (isBuffer_of_region (.inr hr))
  · cases h; exact .ignored

/-- Only the host's side of the state differs: its program, its call, its results, and the transport's settings. -/
abbrev hostSide (s t : State) : Prop := t = { s with client := t.client, transport := t.transport }

/-- Everything a step of a call can do: at most one host write, then bookkeeping on the host's side. -/
theorem callStep_cases {c : Call} {s t : State} (h : callStep c s = .next t) : ∃ u, HostWrite s u ∧ hostSide u t := by
  unfold callStep at h
  split at h
  · cases h; split <;> exact ⟨s, .ignored, rfl⟩
  · cases h; exact ⟨s, .ignored, rfl⟩
  · obtain ⟨u, hu, rfl⟩ := andThen_next h; exact ⟨u, windowWrite_cases hu, rfl⟩
  · split at h
    · obtain ⟨u, hu, rfl⟩ := andThen_next h; exact ⟨u, windowWrite_cases hu, rfl⟩
    · cases h; exact ⟨s, .ignored, rfl⟩
  · obtain ⟨u, hu, rfl⟩ := andThen_next h; exact ⟨u, windowWrite_cases hu, rfl⟩
  · cases h; exact ⟨s, .ignored, rfl⟩
  · obtain ⟨u, hu, rfl⟩ := andThen_next h; exact ⟨u, windowWrite_cases hu, rfl⟩
  · cases h; exact ⟨s, .ignored, rfl⟩
  · cases h; split <;> exact ⟨s, .ignored, rfl⟩
  · cases h; exact ⟨s, .ignored, rfl⟩

/-- Opening a call touches the host's side alone. -/
theorem openCall_hostSide {k : CallKind} {c : Byte} {d : List Byte} {tmo : BitVec 16} {valid : Bool} {s t : State}
    (h : openCall k c d tmo valid s = .next t) : hostSide s t := by
  unfold openCall at h
  split at h
  · cases h
  · cases h; split <;> rfl

/-- Everything an operation of the host's program can do: at most one host write, or bookkeeping on the host's side. -/
theorem hostOp_cases {o : HostOp} {s t : State} (h : hostOp o s = .next t) : ∃ u, HostWrite s u ∧ hostSide u t := by
  cases o with
  | access a =>
    cases a with
    | read w addr =>
      simp only [hostOp, hostAccess] at h
      split at h
      · cases h; exact ⟨s, .ignored, rfl⟩
      · cases h
    | write w addr v =>
      simp only [hostOp, hostAccess] at h
      split at h
      · exact ⟨t, windowWrite_cases h, rfl⟩
      · cases h
  | wait => cases h; split <;> exact ⟨s, .ignored, rfl⟩
  | command c =>
    simp only [hostOp] at h
    split at h
    · exact ⟨t, .operation _ _ h, rfl⟩
    · exact ⟨s, .ignored, openCall_hostSide h⟩
  | sendCommandCheckAck c tmo => exact ⟨s, .ignored, openCall_hostSide h⟩
  | setArgs a => cases h; exact ⟨s, .ignored, rfl⟩
  | setBus b => cases h; exact ⟨s, .ignored, rfl⟩
  | backupBus => cases h; exact ⟨s, .ignored, rfl⟩
  | restoreBus => cases h; split <;> exact ⟨s, .ignored, rfl⟩

/-- Everything a turn of the host can do. -/
theorem hostTurn_cases {s t : State} (h : hostTurn s = .next t) :
    ∃ r u, hostSide s r ∧ HostWrite r u ∧ hostSide u t := by
  unfold hostTurn at h
  split at h
  · obtain ⟨u, hu, ht⟩ := callStep_cases h; exact ⟨s, u, rfl, hu, ht⟩
  · split at h
    · cases h; exact ⟨s, s, rfl, .ignored, rfl⟩
    · obtain ⟨u, hu, ht⟩ := hostOp_cases h; exact ⟨_, u, rfl, hu, ht⟩

/-! ### Operations on a quiet block -/

/-- A refusal or codec failure on a quiet block leaves OP, ATT, OPK and STATUS. -/
theorem State.accept_fail {s : State} (hq : s.quiet) (w : Word) {e : Err} (he : e ≠ .noError) :
    (s.accept w).fail e = s.ended w e 0 0 := by
  obtain ⟨hb, hc⟩ := hq
  simp [State.fail, State.finish, State.csRelease, State.accept, State.ended, hc, he]

/-- A codec success on a quiet block. -/
theorem State.accept_succeed {s : State} (hq : s.quiet) (w : Word) (rc rl : Byte) :
    ((s.accept w).setResponse rc rl).succeed = s.ended w .noError rc rl := by
  obtain ⟨hb, hc⟩ := hq
  simp [State.succeed, State.finish, State.csRelease, State.accept, State.setResponse, State.ended, hc]

/-- A bus operation accepted on a quiet block. -/
theorem State.accept_startBus {s : State} (hq : s.quiet) (w : Word) (k : OpKind) (cmd : Byte) :
    (s.accept w).startBus k cmd = s.started w k cmd := by
  obtain ⟨hb, hc⟩ := hq
  simp [State.startBus, State.accept, State.started, hc]

end Sys2Proof.Machine
end

