-- ==== Sys2Proof/Laws/PerInstr.lean ====
section
/-! SUPPORT. The fields of an encoded operation word, and the family RoundTrip: decoding an instruction's own encoding, as
the opcode table numbers it, gives the instruction back. -/

namespace Sys2Proof

theorem opcField_opWordOf (opc : BitVec 4) (loop : Bool) (cmd plen : Byte) :
    opcField (opWordOf opc loop cmd plen) = opc := by
  ext i hi
  simp only [opcField, opWordOf, BitVec.getElem_extractLsb', BitVec.getLsbD_append]
  simp [show i < 8 by omega, show i < 4 by omega]

theorem loopField_opWordOf (opc : BitVec 4) (loop : Bool) (cmd plen : Byte) :
    loopField (opWordOf opc loop cmd plen) = loop := by
  simp only [loopField, opWordOf, BitVec.getLsbD_append]
  simp

theorem reservedLow_opWordOf (opc : BitVec 4) (loop : Bool) (cmd plen : Byte) :
    reservedLow (opWordOf opc loop cmd plen) = 0 := by
  ext i hi
  simp only [reservedLow, opWordOf, BitVec.getElem_extractLsb', BitVec.getLsbD_append]
  simp [show 5 + i < 8 by omega, show ¬ 5 + i < 4 by omega, show 5 + i - 4 ≠ 0 by omega]

theorem cmdField_opWordOf (opc : BitVec 4) (loop : Bool) (cmd plen : Byte) :
    cmdField (opWordOf opc loop cmd plen) = cmd := by
  ext i hi
  simp only [cmdField, opWordOf, BitVec.getElem_extractLsb', BitVec.getLsbD_append]
  simp [hi]

theorem plenField_opWordOf (opc : BitVec 4) (loop : Bool) (cmd plen : Byte) :
    plenField (opWordOf opc loop cmd plen) = plen := by
  ext i hi
  simp only [plenField, opWordOf, BitVec.getElem_extractLsb', BitVec.getLsbD_append]
  simp [show ¬ 16 + i < 8 by omega, show ¬ 16 + i - 8 < 8 by omega, show 16 + i - 8 - 8 = i by omega, hi]

theorem reservedHigh_opWordOf (opc : BitVec 4) (loop : Bool) (cmd plen : Byte) :
    reservedHigh (opWordOf opc loop cmd plen) = 0 := by
  ext i hi
  simp only [reservedHigh, opWordOf, BitVec.getElem_extractLsb', BitVec.getLsbD_append]
  simp [show ¬ 24 + i < 8 by omega, show ¬ 24 + i - 8 < 8 by omega, show ¬ 24 + i - 8 - 8 < 8 by omega]

/-- Decoding the word of R90 leaves the dispatch on OPC and LOOP. -/
theorem decodeOpWord_opWordOf (opc : BitVec 4) (loop : Bool) (cmd plen : Byte) :
    decodeOpWord (opWordOf opc loop cmd plen) = decodeOpc opc loop cmd plen := by
  rw [decodeOpWord, reservedLow_opWordOf, reservedHigh_opWordOf, opcField_opWordOf, loopField_opWordOf,
    cmdField_opWordOf, plenField_opWordOf]
  simp

namespace Laws.RoundTrip

/-- Decoding `i`'s encoding, given as the table's number and bit count, gives `i`. -/
def Statement (i : Instr) : Prop := decodeTableWord (encode i).nbits (encode i).toNat = some i

/-- The same through an operation word that dispatches to `i`. -/
theorem of_opWord {i : Instr} {opc : BitVec 4} {loop : Bool} {cmd plen : Byte}
    (he : encode i = .opWord (opWordOf opc loop cmd plen)) (hd : decodeOpc opc loop cmd plen = .ok i) : Statement i := by
  have : encodedOfTable 32 (opWordOf opc loop cmd plen).toNat = .opWord (opWordOf opc loop cmd plen) := by
    simp [encodedOfTable]
  simp only [Statement, he, Encoded.nbits, Encoded.toNat, decodeTableWord, this, decode, decodeOpWord_opWordOf, hd]

theorem fceEncode (cmd plen : Byte) : Statement (.fceEncode cmd plen) := of_opWord rfl rfl
theorem fceDecode (cmd plen : Byte) : Statement (.fceDecode cmd plen) := of_opWord rfl rfl
theorem fceDecodeLoop (cmd plen : Byte) : Statement (.fceDecodeLoop cmd plen) := of_opWord rfl rfl
theorem fceCheckAck (cmd plen : Byte) : Statement (.fceCheckAck cmd plen) := of_opWord rfl rfl
theorem fceSendAck (cmd plen : Byte) : Statement (.fceSendAck cmd plen) := of_opWord rfl rfl
theorem fceReadResp (cmd plen : Byte) : Statement (.fceReadResp cmd plen) := of_opWord rfl rfl
theorem fceExchange (cmd plen : Byte) : Statement (.fceExchange cmd plen) := of_opWord rfl rfl
theorem cmdFirmwareVersion : Statement .cmdFirmwareVersion := rfl
theorem cmdGeneralStatus : Statement .cmdGeneralStatus := rfl
theorem cmdSamConfiguration : Statement .cmdSamConfiguration := rfl
theorem cmdRfConfiguration : Statement .cmdRfConfiguration := rfl
theorem cmdInListPassiveTarget : Statement .cmdInListPassiveTarget := rfl
theorem cmdDataExchange : Statement .cmdDataExchange := rfl

end Laws.RoundTrip

end Sys2Proof
end

