-- ==== Sys2Proof/Laws/Exec.lean ====
section
/-! SUPPORT. The fields of a word as numbers, the regions of the window, STATUS as the command layer reads it, what an
instruction comes to (an acceptance or the start of a call), and runs of the engine. -/

namespace Sys2Proof

/-! ### Fields of a word -/

theorem reservedLow_toNat (w : Word) : (reservedLow w).toNat = w.toNat / 32 % 8 := by
  simp [reservedLow, BitVec.extractLsb'_toNat, Nat.shiftRight_eq_div_pow]

theorem reservedHigh_toNat (w : Word) : (reservedHigh w).toNat = w.toNat / 16777216 % 256 := by
  simp [reservedHigh, BitVec.extractLsb'_toNat, Nat.shiftRight_eq_div_pow]

theorem opcField_toNat (w : Word) : (opcField w).toNat = w.toNat % 16 := by
  simp [opcField, BitVec.extractLsb'_toNat]

theorem cmdField_toNat (w : Word) : (cmdField w).toNat = w.toNat / 256 % 256 := by
  simp [cmdField, BitVec.extractLsb'_toNat, Nat.shiftRight_eq_div_pow]

theorem plenField_toNat (w : Word) : (plenField w).toNat = w.toNat / 65536 % 256 := by
  simp [plenField, BitVec.extractLsb'_toNat, Nat.shiftRight_eq_div_pow]

theorem loopField_toNat (w : Word) : (loopField w).toNat = w.toNat / 16 % 2 := by
  simp [loopField, BitVec.getLsbD, Nat.testBit, Nat.shiftRight_eq_div_pow]
  rcases Nat.mod_two_eq_zero_or_one (w.toNat / 16) with h | h <;> simp [h]

/-- A word with zero reserved bits is its four fields. -/
theorem opWordOf_fields (w : Word) (h1 : reservedLow w = 0) (h2 : reservedHigh w = 0) :
    w = opWordOf (opcField w) (loopField w) (cmdField w) (plenField w) := by
  apply BitVec.eq_of_toNat_eq
  rw [opWordOf_toNat, opcField_toNat, cmdField_toNat, plenField_toNat, loopField_toNat]
  have := reservedLow_toNat w
  have := reservedHigh_toNat w
  rw [h1] at *
  rw [h2] at *
  have := w.isLt
  simp at *
  omega

namespace Machine

/-- The word of the claims is the word of the encoder. -/
theorem opWordOf_eq_wordOf (opc : BitVec 4) (loop : Bool) (low : Nat) (cmd plen : Byte)
    (h : low = 16 * loop.toNat + opc.toNat) : opWordOf opc loop cmd plen = wordOf low cmd plen := by
  apply BitVec.eq_of_toNat_eq
  rw [opWordOf_toNat, wordOf, BitVec.toNat_ofNat, h]
  have h1 := opc.isLt
  have h2 := cmd.isLt
  have h3 := plen.isLt
  have h4 : loop.toNat ≤ 1 := by cases loop <;> decide
  omega

/-! ### Regions -/

/-- Which region an offset lies in, by its range. -/
theorem regionOf_cases (off : Nat) :
    (∃ r, off = Reg.offset r ∧ regionOf off = .reg r) ∨
      (off < 0x20 ∧ (∀ r, off ≠ Reg.offset r) ∧ regionOf off = .insideReg) ∨
      (0x100 ≤ off ∧ off ≤ 0x1FC ∧ regionOf off = .pbuf) ∨ (0x200 ≤ off ∧ off ≤ 0x305 ∧ regionOf off = .txf) ∨
      (0x400 ≤ off ∧ off ≤ 0x505 ∧ regionOf off = .rxf) ∨ (0x600 ≤ off ∧ off ≤ 0x605 ∧ regionOf off = .ackr) ∨
      (0x20 ≤ off ∧ ¬ bufferOffset off ∧ regionOf off = .reserved) := by
  unfold regionOf
  split
  · split
    · rename_i r h
      left; refine ⟨r, ?_, rfl⟩
      have := List.find?_some h
      simpa using (of_decide_eq_true this).symm
    · rename_i h
      right; left; refine ⟨by assumption, fun r hr => ?_, rfl⟩
      have := List.find?_eq_none.mp h r (by cases r <;> simp)
      simp [hr] at this
  · rename_i h0
    right; right
    split
    · rename_i h; unfold pbufBase pbufSize at h; left; exact ⟨by omega, by omega, rfl⟩
    · rename_i h1; right
      split
      · rename_i h; unfold txfBase txfSize at h; left; exact ⟨by omega, by omega, rfl⟩
      · rename_i h2; right
        split
        · rename_i h; unfold rxfBase rxfSize at h; left; exact ⟨by omega, by omega, rfl⟩
        · rename_i h3; right
          split
          · rename_i h; unfold ackrBase ackrSize at h; left; exact ⟨by omega, by omega, rfl⟩
          · rename_i h4; right
            unfold pbufBase pbufSize at h1; unfold txfBase txfSize at h2; unfold rxfBase rxfSize at h3; unfold ackrBase ackrSize at h4
            refine ⟨by omega, ?_, rfl⟩
            unfold bufferOffset; omega

/-- A reserved offset reads as zero at any width (10_state.md R42). -/
theorem windowRead_reserved {w : Width} {off : Nat} (s : State) (h : regionOf off = .reserved) :
    windowRead w off s = 0 := by
  unfold windowRead
  cases w <;> rw [h]

theorem regionOf_pbuf {i : Nat} (h : i ≤ 252) : regionOf (pbufBase + i) = .pbuf := by
  unfold regionOf
  rw [if_neg (by unfold pbufBase; omega), if_pos (by unfold pbufSize; omega)]

theorem regionOf_rxf {i : Nat} (h : i ≤ 261) : regionOf (rxfBase + i) = .rxf := by
  unfold regionOf
  rw [if_neg (by unfold rxfBase; omega), if_neg (by unfold rxfBase pbufBase pbufSize; omega),
    if_neg (by unfold rxfBase txfBase txfSize; omega), if_pos (by unfold rxfSize; omega)]

/-! ### STATUS as the command layer reads it -/

@[simp] theorem statusBusy_word (st : Status) : statusBusy st.word = st.busy := by
  simp only [statusBusy, Status.word, BitVec.getLsbD_append]
  simp

@[simp] theorem statusDone_word (st : Status) : statusDone st.word = st.done := by
  simp only [statusDone, Status.word, BitVec.getLsbD_append]
  simp

@[simp] theorem statusOk_word (st : Status) : statusOk st.word = st.ok := by
  simp only [statusOk, Status.word, BitVec.getLsbD_append]
  simp

@[simp] theorem statusRespLen_word (st : Status) : statusRespLen st.word = st.respLen := by
  ext i hi
  simp only [statusRespLen, Status.word, BitVec.getElem_extractLsb', BitVec.getLsbD_append]
  simp [show ¬ 21 + i < 3 by omega, show ¬ 21 + i - 3 = 0 by omega, show ¬ 21 + i - 3 - 1 = 0 by omega,
    show ¬ 21 + i - 3 - 1 - 1 < 4 by omega, show ¬ 21 + i - 3 - 1 - 1 - 4 < 4 by omega,
    show ¬ 21 + i - 3 - 1 - 1 - 4 - 4 < 8 by omega, show 21 + i - 3 - 1 - 1 - 4 - 4 - 8 = i by omega, hi]

/-- A 32-bit read at STATUS gives its word. -/
theorem read_status (s : State) : (windowRead .w32 (Reg.offset .status) s).setWidth 32 = s.status.word := by
  show ((s.regWord .status).setWidth 64).setWidth 32 = _
  simp
  rfl

/-! ### Writes of OP by the command layer -/

/-- A 32-bit write at OP of an instruction's word is the instruction. -/
theorem windowWrite_opWord (opc : BitVec 4) (loop : Bool) (cmd plen : Byte) (i : Instr) (s : State)
    (h : decodeOpc opc loop cmd plen = .ok i) :
    windowWrite .w32 (Reg.offset .op) ((opWordOf opc loop cmd plen).setWidth 64) s = exec i s := by
  have hw : (BitVec.setWidth 32 (BitVec.setWidth 64 (opWordOf opc loop cmd plen))) = opWordOf opc loop cmd plen := by
    simp
  show opWrite _ s = _
  unfold opWrite
  rw [hw]
  simp only [decode, decodeOpWord_opWordOf, h]

/-! ### What an instruction comes to -/

/-- An operation word is the acceptance of its word with one of the shared operations. -/
theorem exec_operation {i : Instr} (h : isOperation i = true) :
    ∃ v f, (∀ s, exec i s = acceptOp v f s) ∧
      ((∃ c p, f = performEncode c p) ∨ (∃ t, f = performDecode t) ∨ f = performCheckAck ∨
        (∃ k c p, f = performSend k c p) ∨ (∃ c, f = fun s => s.startBus .readResponse c)) := by
  cases i with
  | fceEncode c p => exact ⟨_, _, fun _ => rfl, .inl ⟨_, _, rfl⟩⟩
  | fceDecode c p => exact ⟨_, _, fun _ => rfl, .inr (.inl ⟨_, rfl⟩)⟩
  | fceDecodeLoop c p => exact ⟨_, _, fun _ => rfl, .inr (.inl ⟨_, rfl⟩)⟩
  | fceCheckAck c p => exact ⟨_, _, fun _ => rfl, .inr (.inr (.inl rfl))⟩
  | fceSendAck c p => exact ⟨_, _, fun _ => rfl, .inr (.inr (.inr (.inl ⟨_, _, _, rfl⟩)))⟩
  | fceReadResp c p => exact ⟨_, _, fun _ => rfl, .inr (.inr (.inr (.inr ⟨_, rfl⟩)))⟩
  | fceExchange c p => exact ⟨_, _, fun _ => rfl, .inr (.inr (.inr (.inl ⟨_, _, _, rfl⟩)))⟩
  | _ => cases h

/-- A command code starts a call. -/
theorem exec_command {i : Instr} (h : isOperation i = false) (s : State) : ∃ k c, exec i s = startCall k c s := by
  cases i <;> first | (cases h; done) | exact ⟨_, _, rfl⟩

/-- A layout keeps every named byte, once, and adds its others: no named byte is dropped from the DATA. -/
theorem layOut_perm (others : List Byte) (places : List Nat) (named : List Byte) :
    (layOut others places named).Perm (named ++ others) := by
  induction named generalizing places with
  | nil => exact .refl _
  | cons b named ih =>
    exact (List.perm_insertIdx b _ (Nat.le_of_lt_succ (Nat.mod_lt _ (Nat.succ_pos _)))).trans ((ih places.tail).cons b)

theorem laidOut_perm (layout : List Byte → PayloadLayout) (named : List Byte) :
    (laidOut layout named).Perm (named ++ (layout named).others) := layOut_perm _ _ _

/-- Everything opening a call can do. -/
theorem openCall_cases {k : CallKind} {c : Byte} {d : List Byte} {tmo : BitVec 16} {valid : Bool} {s t : State}
    (h : openCall k c d tmo valid s = .next t) :
    s.client.call = none ∧
      ((valid = true ∧ t = s.calledWith k c d tmo) ∨ (valid = false ∧ t = s.returnCall (k.result false []) none)) := by
  unfold openCall at h
  split at h
  · cases h
  · rename_i hc
    cases h
    refine ⟨hc, ?_⟩
    cases valid
    · exact .inr ⟨rfl, rfl⟩
    · exact .inl ⟨rfl, rfl⟩

/-- Everything starting a command code's call can do. -/
theorem startCall_cases {k : CallKind} {c : Byte} {s t : State} (h : startCall k c s = .next t) :
    s.client.call = none ∧ (t = s.called k c ∨ ∃ r, t = s.returnCall r none) := by
  obtain ⟨hc, ⟨-, ht⟩ | ⟨-, ht⟩⟩ := openCall_cases h
  · exact ⟨hc, .inl ht⟩
  · exact ⟨hc, .inr ⟨_, ht⟩⟩

/-- On a quiet block an operation's word is accepted. -/
theorem acceptOp_quiet {s : State} (hq : s.quiet) (v : Word) (f : State → State) :
    acceptOp v f s = .next (f (s.accept v)) := by
  rw [acceptOp, State.guardBusy_free s hq.1]

/-- Everything a write of an operation word can do. -/
theorem acceptOp_cases {s t : State} {v : Word} {f : State → State} (h : acceptOp v f s = .next t) :
    (s.status.busy = true ∧ t = s.rejected) ∨ (s.status.busy = false ∧ t = f (s.accept v)) := by
  cases h
  exact guardBusy_cases s (fun s => f (s.accept v))

/-! ### The engine -/

/-- One engine step is a run of one. -/
theorem engineRun_one {s t : State} (h : engineStep s = .next t) : engineRun 1 s = .next t := by simp [engineRun, h]

/-- Runs compose. -/
theorem engineRun_trans {m n : Nat} {s t u : State} (h1 : engineRun m s = .next t) (h2 : engineRun n t = .next u) :
    engineRun (m + n) s = .next u := by
  induction m generalizing s with
  | zero =>
    simp only [engineRun, Host.Outcome.next.injEq] at h1
    rw [Nat.zero_add, h1]
    exact h2
  | succ m ih =>
    rw [show m + 1 + n = (m + n) + 1 by omega]
    simp only [engineRun] at h1 ⊢
    split at h1
    · rename_i v hv
      exact ih h1
    · cases h1
    · cases h1

end Machine

end Sys2Proof
end

