-- ==== Sys2Proof/Tests/Slice0.lean ====
section
/-! SUPPORT. Tests with expected results from the spec's words and tables or by hand from them, and for every obligation with
hypotheses a witness that meets them. -/

namespace Sys2Proof.Tests

open Sys2Proof Sys2Proof.Machine

/-! ### Helpers -/

/-- The step answers a next state with the property. -/
def after (o : Host.Outcome State Fault Refusal) (p : State → Bool) : Bool :=
  match o with
  | .next t => p t
  | .fault _ => false
  | .refused _ => false

/-- Reset, with these raw bytes in RXF and RXN. -/
def withRx (bs : List Byte) : State :=
  { State.reset with mem := Memory.setRange rxfBase bs [], rxn := BitVec.ofNat 9 bs.length }

/-- Reset, with these payload bytes in PBUF. -/
def withPayload (bs : List Byte) : State := { State.reset with mem := Memory.setRange pbufBase bs [] }

/-- An operation in progress with chip-select asserted. -/
def running (k : OpKind) (f : Fsm) (m : Memory) (txn rxn idx : BitVec 9) : State :=
  { State.reset with
    opk := k, limit := 3, mem := m, txn := txn, rxn := rxn, idx := idx, trace := [.csAssert]
    status := { Status.reset with busy := true, cs := true, fsm := f } }

/-- GetFirmwareVersion's frame: 0xD4 + 0x02 = 0xD6, so DCS is 0x2A. -/
def firmwareFrame : List Byte := [0x00, 0x00, 0xFF, 0x02, 0xFE, 0xD4, 0x02, 0x2A, 0x00]

/-- A response of four payload bytes: 0xD5 + 0x03 + 0x32 + 0x01 + 0x06 + 0x07 = 0x118, so DCS is 0xE8. -/
def firmwareResponse : List Byte := [0x00, 0x00, 0xFF, 0x06, 0xFA, 0xD5, 0x03, 0x32, 0x01, 0x06, 0x07, 0xE8, 0x00]

/-- A call of getFirmwareVersion in a phase. -/
def calling (p : Phase) : Call :=
  { kind := .getFirmwareVersion, cmd := 0x02, payload := [], timeoutMs := 1000, phase := p, saved := BusSettings.reset,
    got := [] }

/-- Reset with a call in progress. -/
def inCall (p : Phase) : State := State.reset.setCall (some (calling p))

/-- Reset with a host that authenticates with this key. -/
def hostWith (key : List Byte) : State :=
  { State.reset with client := { Client.reset with args := { Args.reset with key := key } } }

/-- Reset, on an instance with re-poll. -/
def repolling : State := State.resetOf { Param.default with repoll := true }

/-! ### Decoding, words written out from 30_encoding.md R90, R92 and 45_command_layer.md R193 -/

theorem test_decode_fceEncode :
    decode (.opWord 0b00000000_00000011_00010100_00000001#32) = .ok (.fceEncode 0x14 3) := by decide
theorem test_decode_fceDecode :
    decode (.opWord 0b00000000_00000000_00000000_00000010#32) = .ok (.fceDecode 0 0) := by decide
theorem test_decode_fceDecodeLoop :
    decode (.opWord 0b00000000_00000000_00000000_00010010#32) = .ok (.fceDecodeLoop 0 0) := by decide
theorem test_decode_fceCheckAck :
    decode (.opWord 0b00000000_10000001_00000010_00000011#32) = .ok (.fceCheckAck 0x02 0x81) := by decide
theorem test_decode_fceSendAck :
    decode (.opWord 0b00000000_11111101_01000000_00000100#32) = .ok (.fceSendAck 0x40 253) := by decide
theorem test_decode_fceReadResp :
    decode (.opWord 0b00000000_00000000_01001010_00000101#32) = .ok (.fceReadResp 0x4A 0) := by decide
theorem test_decode_fceExchange :
    decode (.opWord 0b00000000_00000010_01001010_00000110#32) = .ok (.fceExchange 0x4A 2) := by decide
theorem test_decode_cmdFirmwareVersion : decode (.cmdByte 0b00000010#8) = .ok .cmdFirmwareVersion := by decide
theorem test_decode_cmdGeneralStatus : decode (.cmdByte 0b00000100#8) = .ok .cmdGeneralStatus := by decide
theorem test_decode_cmdSamConfiguration : decode (.cmdByte 0b00010100#8) = .ok .cmdSamConfiguration := by decide
theorem test_decode_cmdRfConfiguration : decode (.cmdByte 0b00110010#8) = .ok .cmdRfConfiguration := by decide
theorem test_decode_cmdInListPassiveTarget : decode (.cmdByte 0b01001010#8) = .ok .cmdInListPassiveTarget := by decide
theorem test_decode_cmdDataExchange : decode (.cmdByte 0b01000000#8) = .ok .cmdDataExchange := by decide

/-- Refused words of R108: reserved high and low bits, a reserved OPC, LOOP outside DECODE. -/
theorem test_decode_refused :
    decode (.opWord 0x01000201#32) = .reject .reservedBits ∧ decode (.opWord 0x00000221#32) = .reject .reservedBits ∧
      decode (.opWord 0x00000000#32) = .reject .reservedOpc ∧ decode (.opWord 0x00000207#32) = .reject .reservedOpc ∧
      decode (.opWord 0x0000020F#32) = .reject .reservedOpc ∧ decode (.opWord 0x00000214#32) = .reject .loopMisuse ∧
      decode (.cmdByte 0x03#8) = .reject .unlistedCommand := by decide

/-! ### WellFormed: an ill-formed term for each check -/

theorem test_wellFormed_fceEncode :
    Instr.wellFormed (.fceEncode 0x02 254) = false ∧ Instr.wellFormed (.fceEncode 0x02 253) = true := by decide
theorem test_wellFormed_fceSendAck :
    Instr.wellFormed (.fceSendAck 0x02 255) = false ∧ Instr.wellFormed (.fceSendAck 0x02 253) = true := by decide
theorem test_wellFormed_fceExchange :
    Instr.wellFormed (.fceExchange 0x02 254) = false ∧ Instr.wellFormed (.fceExchange 0x02 253) = true := by decide

/-! ### One step of each instruction -/

/-- 95_test_vectors.md S1, E1. -/
theorem test_fceEncode_frame :
    after (exec (.fceEncode 0x02 0) State.reset)
      (fun t => decide (t.readBytes 0x200 9 = firmwareFrame ∧ t.txn = 9 ∧ t.regWord .status = 0x00000806)) = true := by decide
/-- 95_test_vectors.md E3: LEN 5, LCS 0xFB, the sum 0xFE gives DCS 0x02. -/
theorem test_fceEncode_payload :
    after (exec (.fceEncode 0x14 3) (withPayload [0x01, 0x14, 0x01]))
      (fun t => decide (t.readBytes 0x200 12 =
        [0x00, 0x00, 0xFF, 0x05, 0xFB, 0xD4, 0x14, 0x01, 0x14, 0x01, 0x02, 0x00] ∧ t.txn = 12)) = true := by decide
/-- The response of 41_handshake.md R166's worked example. -/
theorem test_fceDecode_response :
    after (exec (.fceDecode 0 0) (withRx firmwareResponse))
      (fun t => decide (t.status.ok = true ∧ t.status.respCmd = 0x03 ∧ t.status.respLen = 4 ∧ t.op = 0x00000002)) = true := by
  decide
/-- 95_test_vectors.md S2: a host-to-chip frame is not a response. -/
theorem test_fceDecode_direction :
    after (exec (.fceDecode 0 0) (withRx firmwareFrame))
      (fun t => decide (t.regWord .status = 0x0000090A)) = true := by decide
/-- 95_test_vectors.md S2. -/
theorem test_fceDecodeLoop_loopback :
    after (exec (.fceDecodeLoop 0 0) (withRx firmwareFrame))
      (fun t => decide (t.regWord .status = 0x00020806)) = true := by decide
/-- 95_test_vectors.md S4: the same frame with DCS one off. -/
theorem test_fceDecodeLoop_checksum :
    after (exec (.fceDecodeLoop 0 0) (withRx (firmwareFrame.set 7 0x2B)))
      (fun t => decide (t.regWord .status = 0x00000912)) = true := by decide
/-- 40_codec.md R132's worked example. -/
theorem test_fceCheckAck_ack :
    after (exec (.fceCheckAck 0 0) (withRx [0x00, 0x00, 0xFF, 0x00, 0xFF, 0x00]))
      (fun t => decide (t.status.ok = true ∧ t.status.fsm = .success)) = true := by decide
/-- The NACK's bytes are no ACK (40_codec.md R132). -/
theorem test_fceCheckAck_nack :
    after (exec (.fceCheckAck 0 0) (withRx [0x00, 0x00, 0xFF, 0xFF, 0x00, 0x00]))
      (fun t => decide (t.regWord .status = 0x0000091A)) = true := by decide
/-- LIMIT is 100 for the default instance at 10 ms (41_handshake.md R152, R165). -/
theorem test_fceSendAck_starts :
    after (exec (.fceSendAck 0x02 0) State.reset)
      (fun t => decide (t.status.busy = true ∧ t.status.fsm = .start ∧ t.readBytes 0x200 9 = firmwareFrame ∧
        t.limit = 100 ∧ t.trace = [] ∧ t.op = 0x00000204)) = true := by decide
/-- PLEN 254 is INVALID_ARG for every MAX_PLEN, with nothing written (R122, R222). -/
theorem test_fceSendAck_tooLong :
    after (exec (.fceSendAck 0x02 254) State.reset)
      (fun t => decide (t.status.busy = false ∧ t.status.err = .invalidArg ∧ t.mem = [] ∧ t.txn = 0)) = true := by decide
/-- READ_RESPONSE ignores PLEN and leaves TXF alone (41_handshake.md R166). -/
theorem test_fceReadResp_starts :
    after (exec (.fceReadResp 0x02 7) State.reset)
      (fun t => decide (t.status.fsm = .start ∧ t.opk = .readResponse ∧ t.cmdl = 0x02 ∧ t.mem = [] ∧
        t.op = 0x00070205)) = true := by decide
/-- While BUSY only REJ changes (20_memory.md R75). -/
theorem test_fceReadResp_busy :
    after (exec (.fceReadResp 0x02 0) (running .sendCheckAck .awaitReady [] 9 0 9))
      (fun t => decide (t.status.rej = true ∧ t.op = 0 ∧ t.opk = .sendCheckAck ∧ t.status.fsm = .awaitReady)) = true := by
  decide
/-- A frame of two payload bytes has 11 bytes (40_codec.md R121); chip-select waits for START (41_handshake.md R153). -/
theorem test_fceExchange_starts :
    after (exec (.fceExchange 0x4A 2) (withPayload [0x01, 0x00]))
      (fun t => decide (t.opk = .exchange ∧ t.cmdl = 0x4A ∧ t.txn = 11 ∧ t.status.cs = false)) = true := by decide
/-- The command codes and their operations: the table of 45_command_layer.md R193. -/
theorem test_cmdFirmwareVersion_starts :
    after (exec .cmdFirmwareVersion State.reset) (fun t => decide (t.client.call = some (calling .saveBus))) = true := by
  decide
theorem test_cmdGeneralStatus_starts :
    after (exec .cmdGeneralStatus State.reset)
      (fun t => decide (t.client.call.map (fun c => (c.kind, c.cmd)) = some (.generalStatus, 0x04))) = true := by decide
theorem test_cmdSamConfiguration_starts :
    after (exec .cmdSamConfiguration State.reset)
      (fun t => decide (t.client.call.map (fun c => (c.kind, c.cmd)) = some (.samConfig, 0x14))) = true := by decide
/-- RFConfiguration reads no response (R199). -/
theorem test_cmdRfConfiguration_starts :
    after (exec .cmdRfConfiguration State.reset)
      (fun t => decide (t.client.call.map (fun c => (c.cmd, c.kind.expectsData)) = some (0x32, false))) = true := by decide
theorem test_cmdInListPassiveTarget_starts :
    after (exec .cmdInListPassiveTarget State.reset)
      (fun t => decide (t.client.call.map (fun c => (c.kind, c.cmd)) = some (.readPassiveTargetID, 0x4A))) = true := by
  decide
theorem test_cmdDataExchange_starts :
    after (exec .cmdDataExchange State.reset)
      (fun t => decide (t.client.call.map (fun c => (c.kind, c.cmd)) = some (.authenticateBlock, 0x40))) = true := by decide
/-- A key of five bytes is refused before any access (R205). -/
theorem test_cmdDataExchange_key :
    after (exec .cmdDataExchange (hostWith [0, 0, 0, 0, 0]))
      (fun t => decide (t.client.call = none ∧ t.client.result = some (.word 0))) = true := by decide
/-- A read into a buffer of fifteen bytes is refused before any access (R205). -/
theorem test_cmdDataExchange_out :
    after (exec .cmdDataExchange { State.reset with
        client := { Client.reset with args := { Args.reset with dataExchange := .readMemoryBlock, outSize := 15 } } })
      (fun t => decide (t.client.call = none ∧ t.client.result = some (.word 0))) = true := by decide
/-- `sendCommandCheckAck` carries a listed command byte too (R195), and without one it is `false` (30_encoding.md R95). -/
theorem test_sendCommandCheckAck :
    after (hostOp (.sendCommandCheckAck [0x14, 0x01] 1000) State.reset)
        (fun t => decide (t.client.call.map (fun c => (c.kind, c.cmd, c.payload)) =
          some (.sendCommandCheckAck, 0x14, [0x01]))) = true ∧
      after (hostOp (.sendCommandCheckAck [] 1000) State.reset)
        (fun t => decide (t.client.call = none ∧ t.client.result = some (.flag false))) = true := by decide
/-- The suggested order of R203, slot, card command, block, is a layout, and so is one with another byte and the slot
last. -/
theorem test_layOut :
    layOut [] [0, 0, 0] (readNamed Args.reset) = [0x00, 0x30, 0x00] ∧
      layOut [0x07] [3, 0, 1] [0x05, 0x30, 0x09] = [0x30, 0x07, 0x09, 0x05] := by decide
/-- A saved bus configuration lasts until its session ends (R207). -/
theorem test_restoreBus :
    after (hostOp .restoreBus { State.reset with client := { Client.reset with backup := some BusSettings.reset } })
      (fun t => decide (t.client.backup = none)) = true := by decide
/-- 256 parameter bytes do not fit PLEN (30_encoding.md R95, log 25). -/
theorem test_sendack_tooLong : Asm.sendack Param.default 0x14 (List.replicate 256 0) 1000 = none :=
  if_neg (by rw [List.length_replicate]; decide)

/-! ### The engine and the window, one step each -/

/-- 0xFE is not ready (41_handshake.md R155). -/
theorem test_engine_notReady :
    after (engineStep { running .exchange .awaitReady [] 9 0 9 with chip := [0xFE] })
      (fun t => decide (t.status.fsm = .pollWait ∧ t.statb = 0xFE ∧ t.att = 1)) = true := by decide
/-- The sixth byte of a good acknowledgement ends SEND_CHECK_ACK in SUCCESS with chip-select released (41_handshake.md R159). -/
theorem test_engine_ack :
    after (engineStep { running .sendCheckAck .verifyAck (Memory.setRange ackrBase (ackFrame.take 5) []) 9 0 5 with
        chip := [0x00] })
      (fun t => decide (t.regWord .status = 0x00000806 ∧ t.trace = [.csAssert, .read .data 0x00, .csDeassert])) = true := by
  decide
/-- RXN equals IDX, 0, on the entry to READ_HDR (10_state.md R43). -/
theorem test_engine_rxn :
    after (engineStep (running .readResponse .start [] 0 13 0))
      (fun t => decide (t.status.fsm = .readHdr ∧ t.idx = 0 ∧ t.rxn = 0)) = true := by decide
/-- The acknowledgement sent again is a bad header: LEN 0x00 and LCS 0xFF (41_handshake.md R166). -/
theorem test_engine_header :
    after (engineStep { running .readResponse .readHdr (Memory.setRange rxfBase (ackFrame.take 4) []) 9 4 4 with
        chip := [0xFF] })
      (fun t => decide (t.regWord .status = 0x0000090A ∧ t.rxn = 5)) = true := by decide
/-- The last byte of 41_handshake.md R166's worked example: RESP_LEN 4, RESP_CMD 0x03, OK. -/
theorem test_engine_response :
    after (engineStep { running .readResponse .readBody (Memory.setRange rxfBase (firmwareResponse.take 12) []) 9 12 12 with
        cmdl := 0x02, chip := [0x00] })
      (fun t => decide (t.regWord .status = 0x04030806 ∧ t.rxn = 13)) = true := by decide
/-- PARAM of the default instance: MAX_PLEN 253, POLL_DELAY_MS 10 (10_state.md R37). -/
theorem test_window_param : windowRead .w32 0x01C State.reset = 0x000A00FD#64 := by decide

/-- A reserved offset reads as zero at a width that runs into TXF or past the window too (10_state.md R42, 20_memory.md R71). -/
theorem test_window_reserved :
    windowRead .w32 0x1FE State.reset = 0 ∧ windowRead .w16 0xFFF State.reset = 0 ∧
      windowRead .w8 0x606 State.reset = 0 := by decide

/-! ### Witnesses: each meets all hypotheses of its obligation together, one for each clause at the ends of its range -/

theorem witness_EncodeOfDecode :
    decode (.opWord 0x00FFFF06#32) = .ok (.fceExchange 0xFF 0xFF) ∧ decode (.cmdByte 0x40#8) = .ok .cmdDataExchange := by
  decide

/-- Words of every kind in R108's list, on a quiet state. -/
theorem witness_IllegalWordsRefused :
    State.reset.quiet ∧ illegalWord 0x00000000#32 ∧ illegalWord 0x00000007#32 ∧ illegalWord 0x0000000F#32 ∧
      illegalWord 0x00000021#32 ∧ illegalWord 0x00000081#32 ∧ illegalWord 0x01000001#32 ∧ illegalWord 0x80000001#32 ∧
      illegalWord 0x00000011#32 ∧ illegalWord 0x00000016#32 ∧ ¬ illegalWord 0x00000012#32 ∧
      ¬ illegalWord 0x00FFFF06#32 := by
  refine ⟨?_, ?_, ?_, ?_, ?_, ?_, ?_, ?_, ?_, ?_, ?_, ?_⟩ <;> decide

theorem witness_FetchedInstructionRuns :
    decodeTableWord 32 0x00000201 = some (.fceEncode 0x02 0) ∧ decodeTableWord 8 0x4A = some .cmdInListPassiveTarget := by
  decide

/-- A turn of each agent; for the host, a call in progress, an empty program, a read and a write at the ends of the window, a
word and a command code. -/
theorem witness_StepRunsOneAgent :
    ({ State.reset with turns := [.engine] } : State).nextTurn = .engine ∧
      ({ State.reset with turns := [.reset] } : State).nextTurn = .reset ∧
      ({ inCall .waitSend with turns := [.host] } : State).nextTurn = .host ∧
      (inCall .waitSend).client.call = some (calling .waitSend) ∧
      ({ State.reset with turns := [.host] } : State).nextTurn = .host ∧ State.reset.client.call = none ∧
      State.reset.client.program = [] ∧
      (State.reset.withHostOp (.access (.read .w8 (State.reset.param.fceBase + 0xFFF)))).client.program =
        [.access (.read .w8 (State.reset.param.fceBase + 0xFFF))] ∧
      (State.reset.withHostOp (.access (.write .w8 (State.reset.param.fceBase + 0x100) 7))).client.program =
        [.access (.write .w8 (State.reset.param.fceBase + 0x100) 7)] ∧ 0xFFF < 4096 ∧ 0x100 < 4096 ∧
      (State.reset.withFetchWord 32 0x00000201).nextTurn = .host ∧
      (State.reset.withFetchWord 32 0x00000201).client.call = none ∧
      (State.reset.withFetchWord 32 0x00000201).client.program =
        [.access (.write .w32 State.reset.param.fceBase 0x00000201#64)] ∧
      decode (.opWord ((0x00000201#64).setWidth 32)) = .ok (.fceEncode 0x02 0) ∧
      (State.reset.withFetchWord 8 0x02).client.program = [.command 0x02] ∧
      decode (.cmdByte 0x02) = .ok .cmdFirmwareVersion := by decide

/-- The shortest and the longest payload. -/
theorem witness_FrameLayout :
    ([] : List Byte).length ≤ 253 ∧ (List.replicate 253 (0xA5 : Byte)).length ≤ 253 ∧ (0 : Byte).toNat ≤ 253 ∧
      (253 : Byte).toNat ≤ 253 :=
  ⟨by decide, List.length_replicate.le, by decide, by decide⟩

theorem witness_RoundTrip : ([] : List Byte).length ≤ 253 ∧ (List.replicate 253 (0xA5 : Byte)).length ≤ 253 :=
  ⟨by decide, List.length_replicate.le⟩

/-- A valid frame, and an index at each end of the three ranges with a byte that differs there. -/
theorem witness_SingleByteCorruption :
    decodeFrame firmwareResponse 0xD5 = .ok 0x03 4 ∧ firmwareResponse.length = (4 : Byte).toNat + 9 ∧
      firmwareResponse[0]? ≠ some 0x01 ∧ firmwareResponse[5]? ≠ some 0xD4 ∧ firmwareResponse[6]? ≠ some 0x04 ∧
      firmwareResponse[11]? ≠ some 0xE9 ∧ 12 < firmwareResponse.length ∧ firmwareResponse[12]? ≠ some 0xFF := by decide

/-- The frame's LEN + 6 bytes are all but the postamble. -/
theorem witness_DecodeChecksInOrder : (firmwareFrame.getD 3 0).toNat + 6 ≤ firmwareFrame.length := by decide

theorem witness_PostambleNotExamined : decodeFrame firmwareFrame 0xD4 = .ok 0x02 0 := by decide

/-- A quiet state, PLEN at MAX_PLEN and above it. -/
theorem witness_EncodeResult :
    State.reset.quiet ∧ State.reset.param.maxPlen.val < (254 : Byte).toNat ∧
      (253 : Byte).toNat ≤ State.reset.param.maxPlen.val ∧ (0 : Byte).toNat ≤ State.reset.param.maxPlen.val := by decide

theorem witness_DecodeResult : (withRx firmwareResponse).quiet := by decide

theorem witness_CheckAckResult : (withRx ackFrame).quiet := by decide

/-- Both sending operations, PLEN at MAX_PLEN and above it. -/
theorem witness_BusOperationsStart :
    State.reset.quiet ∧
      (Instr.fceSendAck 0x02 253, OpKind.sendCheckAck, 0x04) ∈
        [(Instr.fceSendAck 0x02 253, OpKind.sendCheckAck, 0x04), (Instr.fceExchange 0x02 253, OpKind.exchange, 0x06)] ∧
      State.reset.param.maxPlen.val < (254 : Byte).toNat ∧ (253 : Byte).toNat ≤ State.reset.param.maxPlen.val := by decide

/-- Both reasons: PLEN above MAX_PLEN, and RXN 263. -/
theorem witness_InvalidArgTouchesNothing :
    State.reset.quiet ∧ isOperation (.fceExchange 0x02 254) = true ∧
      after (exec (.fceExchange 0x02 254) State.reset) (fun t => decide (t.status.err = .invalidArg)) = true ∧
      after (exec (.fceCheckAck 0 0) { State.reset with rxn := 263 }) (fun t => decide (t.status.err = .invalidArg)) = true := by
  decide

/-- Each form, quiet and busy. -/
theorem witness_FrameStoringNothing :
    (State.reset.status.cs = true → State.reset.status.busy = true) ∧
      after (exec (.fceDecode 0 0) (withRx firmwareResponse)) (fun _ => true) = true ∧
      after (exec (.fceDecodeLoop 0 0) (withRx firmwareFrame)) (fun _ => true) = true ∧
      after (exec (.fceCheckAck 0 0) (withRx ackFrame)) (fun _ => true) = true ∧
      after (exec (.fceReadResp 0 0) (running .exchange .pollWait [] 9 0 9)) (fun _ => true) = true := by decide

theorem witness_FrameStoringTxf :
    (State.reset.status.cs = true → State.reset.status.busy = true) ∧
      after (exec (.fceEncode 0x02 0) State.reset) (fun _ => true) = true ∧
      after (exec (.fceSendAck 0x02 254) State.reset) (fun _ => true) = true ∧
      after (exec (.fceExchange 0x02 0) (running .exchange .pollWait [] 9 0 9)) (fun _ => true) = true := by decide

theorem witness_FrameCommandCodes :
    isOperation .cmdSamConfiguration = false ∧
      after (exec .cmdSamConfiguration State.reset) (fun _ => true) = true ∧
      after (exec .cmdDataExchange (hostWith [])) (fun _ => true) = true := by decide

/-- A busy block and a free one; a word that decodes and one that does not. -/
theorem witness_BusyRule :
    (running .exchange .pollWait [] 9 0 9).status.busy = true ∧ State.reset.status.busy = false ∧
      decode (.opWord ((0x00000012#64).setWidth 32)) = .ok (.fceDecodeLoop 0 0) ∧
      decode (.opWord ((0x00000000#64).setWidth 32)) = .reject .reservedOpc := by decide

/-- Both reasons at the ends of their ranges, and an address of the window. -/
theorem witness_UnsupportedAccess :
    (0x01F < 0x020 ∧ 0x01F % 4 ≠ 0) ∧ (0x000 < 0x020 ∧ Width.w8 ≠ .w32) ∧ (bufferOffset 0x100 ∧ Width.w32 ≠ .w8) ∧
      (bufferOffset 0x1FC ∧ Width.w64 ≠ .w8) ∧ bufferOffset 0x200 ∧ bufferOffset 0x305 ∧ bufferOffset 0x400 ∧
      bufferOffset 0x505 ∧ bufferOffset 0x600 ∧ bufferOffset 0x605 ∧ State.reset.param.offsetOf 0x605 = some 0x605 ∧
      after (hostAccess (.read .w16 0x605) State.reset) (fun _ => true) = true := by
  refine ⟨?_, ?_, ?_, ?_, ?_, ?_, ?_, ?_, ?_, ?_, ?_, ?_⟩ <;> decide

theorem witness_ReservedOffsets :
    reservedOffset 0x020 ∧ reservedOffset 0x0FF ∧ reservedOffset 0x1FD ∧ reservedOffset 0x1FF ∧ reservedOffset 0x306 ∧
      reservedOffset 0x3FF ∧ reservedOffset 0x506 ∧ reservedOffset 0x5FF ∧ reservedOffset 0x606 ∧ reservedOffset 0xFFF ∧
      ¬ reservedOffset 0x1FC ∧ ¬ reservedOffset 0x305 := by
  refine ⟨?_, ?_, ?_, ?_, ?_, ?_, ?_, ?_, ?_, ?_, ?_, ?_⟩ <;> decide

theorem witness_ReadsChangeNothing : 0x000 < 4096 ∧ 0xFFF < 4096 := by decide

theorem witness_PermittedAccessSucceeds : 0x000 < 4096 ∧ 0xFFF < 4096 := by decide

/-- The two addresses beside a window at 4096, and a command code while a call runs. -/
theorem witness_NamedStops :
    4095 < ({ Param.default with fceBase := 4096 } : Param).fceBase ∧
      ({ Param.default with fceBase := 4096 } : Param).fceBase + 4096 ≤ 8192 ∧
      isOperation .cmdGeneralStatus = false ∧ (inCall .waitSend).client.call.isSome = true := by decide

theorem witness_StartStep :
    (running .exchange .start [] 9 0 0).status.busy = true ∧ (running .exchange .start [] 9 0 0).status.fsm = .start ∧
      (running .readResponse .start [] 9 0 0).status.fsm = .start := by decide

/-- The first byte, the last, and a state that keeps the invariant. -/
theorem witness_SendingStep :
    (running .exchange .sending (Memory.setRange txfBase firmwareFrame []) 9 0 0).status.busy = true ∧
      (running .exchange .sending (Memory.setRange txfBase firmwareFrame []) 9 0 0).status.fsm = .sending ∧
      (running .exchange .sending (Memory.setRange txfBase firmwareFrame []) 9 0 0).idx.toNat < 262 ∧
      (running .exchange .sending (Memory.setRange txfBase firmwareFrame []) 9 0 8).idx + 1 = 9 := by decide

/-- A state in each of the stages that the invariant describes. -/
theorem inv_running {k : OpKind} {f : Fsm} {m : Memory} {txn rxn idx : BitVec 9} (hk : k ≠ .none)
    (hf : f.running = true) (hs : f ≠ .start) (hm : Memory.wf m) (h : (running k f m txn rxn idx).stage) :
    Machine.Inv (running k f m txn rxn idx) := by
  refine ⟨hm, ?_, ?_, ?_, ?_, ?_, ?_, ?_, Nat.zero_le _, fun _ => Nat.succ_pos _, rfl, h⟩
  · simp [running, hf]
  · simp [running, hk]
  · cases f <;> first | (cases hf; done) | rfl
  · cases f <;> first | (cases hf; done) | rfl
  · cases f <;> first | (cases hf; done) | (simp [running, Status.reset])
  · simp [running, hs]
  · intro _; exact ⟨rfl, rfl⟩

/-- In the middle of a frame. -/
theorem witness_Inv_sending :
    Machine.Inv (running .exchange .sending (Memory.setRange txfBase firmwareFrame []) 9 0 3) :=
  inv_running (by decide) rfl (by decide) (by decide) ⟨rfl, ⟨by decide, by decide, by decide⟩, by decide⟩

/-- In the middle of a poll phase. -/
theorem witness_Inv_polling : Machine.Inv (running .sendCheckAck .pollWait [] 9 0 9) :=
  inv_running (by decide) rfl (by decide) (by decide) ⟨by decide, rfl⟩

/-- The last body byte is to come. -/
theorem witness_Inv_reading :
    Machine.Inv (running .readResponse .readBody (Memory.setRange rxfBase (firmwareResponse.take 12) []) 9 12 12) :=
  inv_running (by decide) rfl (by decide) (by decide) ⟨rfl, by decide, rfl, by decide, by decide, by decide⟩

theorem witness_AwaitReadyStep :
    (running .exchange .awaitReady [] 9 0 9).status.busy = true ∧
      (running .exchange .awaitReady [] 9 0 9).status.fsm = .awaitReady := by decide

theorem witness_PollWaitStep :
    (running .exchange .pollWait [] 9 0 9).status.busy = true ∧ (running .exchange .pollWait [] 9 0 9).status.fsm = .pollWait := by
  decide

/-- The first acknowledgement byte and the last. -/
theorem witness_VerifyAckStep :
    (running .exchange .verifyAck [] 9 0 0).status.busy = true ∧ (running .exchange .verifyAck [] 9 0 0).status.fsm = .verifyAck ∧
      (running .exchange .verifyAck [] 9 0 0).idx.toNat < 6 ∧ (running .exchange .verifyAck [] 9 0 5).idx.toNat < 6 ∧
      (running .exchange .verifyAck [] 9 0 5).idx + 1 = 6 := by decide

theorem witness_HeaderStep :
    (running .exchange .readHdr [] 9 0 0).status.busy = true ∧ (running .exchange .readHdr [] 9 0 0).status.fsm = .readHdr ∧
      (running .exchange .readHdr [] 9 0 0).idx.toNat < 262 ∧ (running .exchange .readHdr [] 9 4 4).idx + 1 = 5 := by decide

/-- The last body byte of a response; the whole decodes, with the echo of CMDL 0x02 and not of CMDL 0x04. -/
theorem witness_BodyStep :
    (running .readResponse .readBody (Memory.setRange rxfBase (firmwareResponse.take 12) []) 9 12 12).status.busy = true ∧
      (running .readResponse .readBody (Memory.setRange rxfBase (firmwareResponse.take 12) []) 9 12 12).status.fsm =
        .readBody ∧
      (12 : BitVec 9).toNat < 262 ∧ (12 : BitVec 9).toNat + 1 = (0x06 : Byte).toNat + 7 ∧
      decodeFrame firmwareResponse 0xD5 = .ok 0x03 4 ∧ (0x03 : Byte).toNat = ((0x02 : Byte).toNat + 1) % 256 ∧
      (0x03 : Byte).toNat ≠ ((0x04 : Byte).toNat + 1) % 256 ∧
      decodeFrame (firmwareResponse.set 11 0) 0xD5 = .err .checksum := by decide

/-- The step that times out: the last attempt finds the chip not ready. -/
theorem witness_FinishIsTheOnlyEnd :
    (running .exchange .awaitReady [] 9 0 9).status.busy = true ∧
      after (engineStep { running .exchange .awaitReady [] 9 0 9 with att := 2, chip := [0] })
        (fun t => decide (t.status.busy = false)) = true ∧
      State.reset.status.busy = false ∧ isOperation (.fceEncode 0x02 0) = true ∧
      after (exec (.fceEncode 0x02 0) State.reset) (fun t => decide (t.status.busy = false)) = true := by decide

theorem witness_EngineStepEvents :
    State.reset.status.busy = false ∧
      after (engineStep (running .exchange .pollWait [] 9 0 9)) (fun t => decide (t.trace = [.csAssert, .delay])) = true := by
  decide

/-- A step outside the reading states, one inside them, and one that enters READ_HDR with another RXN. -/
theorem witness_EngineFrame :
    after (engineStep (running .exchange .pollWait [] 9 0 9)) (fun _ => true) = true ∧
      after (engineStep { running .exchange .readHdr [] 9 0 0 with chip := [0] }) (fun t => decide (t.rxn = 1)) = true ∧
      (running .readResponse .start [] 0 13 0).status.fsm ≠ .readHdr ∧
      after (engineStep (running .readResponse .start [] 0 13 0)) (fun t => decide (t.status.fsm = .readHdr)) = true := by
  decide

theorem witness_EngineNeverStops : ∃ s : State, Machine.Inv s ∧ s.status.busy = true := ⟨_, witness_Inv_polling, rfl⟩

/-- Chip-select asserted, and the last byte of a response to come. -/
theorem witness_FlagsAgree :
    (∃ s : State, Machine.Inv s ∧ s.status.cs = true) ∧ ∃ s : State, Machine.Inv s ∧ s.status.fsm = .readBody :=
  ⟨⟨_, witness_Inv_sending, rfl⟩, _, witness_Inv_reading, rfl⟩

/-- A step of the engine and a step of the host. -/
theorem witness_StepKeepsInv :
    ∃ s : State, Machine.Inv s ∧
      after (step { s with turns := [.engine] }) (fun t => decide (t.status.fsm = .awaitReady)) = true ∧
      after (step { s with turns := [.host] }) (fun _ => true) = true := ⟨_, witness_Inv_polling, by decide, by decide⟩

theorem witness_EngineTerminates : ∃ s : State, Machine.Inv s ∧ s.status.busy = true ∧ s.status.fsm = .readBody :=
  ⟨_, witness_Inv_reading, rfl, rfl⟩

/-- Ready at the third read of three, and never ready. -/
theorem witness_PollPhase :
    (running .exchange .awaitReady [] 9 0 9).status.busy = true ∧ (running .exchange .awaitReady [] 9 0 9).status.fsm = .awaitReady ∧
      (running .exchange .awaitReady [] 9 0 9).att = 0 ∧ 0 < (running .exchange .awaitReady [] 9 0 9).limit.toNat ∧
      (∀ b ∈ [(0x00 : Byte), 0xFE, 0x02], b.toNat % 2 = 0) ∧ (0x01 : Byte).toNat % 2 = 1 ∧
      [(0x00 : Byte), 0xFE].length + 1 ≤ (running .exchange .awaitReady [] 9 0 9).limit.toNat ∧
      [(0x00 : Byte), 0xFE, 0x02].length = (running .exchange .awaitReady [] 9 0 9).limit.toNat := by decide

/-- A chip that is ready at the hundredth read, the bound of the default timeout, and one that never is. -/
theorem witness_SendCheckAckRun :
    State.reset.quiet ∧ (0 : Byte).toNat ≤ State.reset.param.maxPlen.val ∧
      (∀ b ∈ List.replicate 100 (0x00 : Byte), b.toNat % 2 = 0) ∧ (0x01 : Byte).toNat % 2 = 1 ∧
      (List.replicate 99 (0x00 : Byte)).length + 1 ≤ (State.reset.param.attemptsOf State.reset.tmo).toNat ∧
      ackFrame.length = 6 ∧
      (List.replicate 100 (0x00 : Byte)).length = (State.reset.param.attemptsOf State.reset.tmo).toNat := by decide

/-- A chip's answers of each kind, on an instance without re-poll and one with, at the bound of the default timeout. -/
theorem witness_ResponsePart :
    ResponsePart false 100 0x02 [] firmwareResponse (responseOutcome firmwareResponse 0x02) ∧
      responseOutcome firmwareResponse 0x02 = (.noError, 0x03, 4) ∧
      ResponsePart false 100 0x02 [] (ackFrame.take 5) (.framing, 0, 0) ∧
      ResponsePart true 100 0x02 (List.replicate 99 0x00 ++ [0x01]) firmwareResponse
        (responseOutcome firmwareResponse 0x02) ∧
      ResponsePart true 100 0x02 (List.replicate 100 0x00) [] (.timeout, 0, 0) :=
  ⟨.frame [] _ rfl (by decide) (by decide), by decide, .header [] _ rfl (by decide) (by decide),
    .frame _ _ ⟨by decide, List.replicate 99 0x00, 0x01, rfl, by decide, by decide⟩ (by decide) (by decide),
    .timeout _ rfl ⟨by decide, by decide⟩⟩

theorem witness_ReadResponseRun :
    ({ State.reset with chip := firmwareResponse } : State).quiet ∧ State.reset.param.repoll = false ∧
      firmwareResponse = [] ++ firmwareResponse ++ [] ∧ repolling.quiet ∧ repolling.param.repoll = true ∧
      (State.reset.param.attemptsOf State.reset.tmo).toNat = 100 ∧ (repolling.param.attemptsOf repolling.tmo).toNat = 100 ∧
      (253 : Byte).toNat ≤ State.reset.param.maxPlen.val ∧ pollFails 100 (List.replicate 100 0x00) ∧
      pollPasses 100 [0x01] ∧ (ackFrame.set 4 0x00).length = 6 ∧ ackFrame.set 4 0x00 ≠ ackFrame :=
  ⟨by decide, rfl, rfl, by decide, rfl, by decide, by decide, by decide, ⟨by decide, by decide⟩,
    ⟨by decide, [], 0x01, rfl, by decide, by decide⟩, by decide, by decide⟩

/-- The host writes TMO while an operation runs. -/
theorem witness_HostCannotDisturb :
    ∃ s t : State, s.status.busy = true ∧ s.nextTurn = .host ∧ step s = .next t ∧ t.status.rej = true ∧ s.tmo = t.tmo :=
  ⟨(running .exchange .pollWait [] 9 0 9).withHostOp (.access (.write .w32 0x008 5)), _, rfl, rfl, rfl, rfl, rfl⟩

theorem witness_TraceAndParameters :
    ∃ s t : State, Machine.Inv s ∧ step { s with turns := [.host] } = .next t :=
  ⟨_, _, witness_Inv_polling, rfl⟩

/-- A reset with chip-select asserted. -/
theorem witness_ResetEffect :
    ({ running .exchange .pollWait [] 9 0 9 with turns := [.reset] } : State).nextTurn = .reset ∧
      (running .exchange .pollWait [] 9 0 9).status.cs = true := by decide

theorem witness_UnwrittenBytes :
    ({ withRx ackFrame with turns := [.reset] } : State).nextTurn = .reset ∧ bufferOffset 0x100 ∧ bufferOffset 0x605 ∧
      0x101 ≠ 0x100 := by
  refine ⟨?_, ?_, ?_, ?_⟩ <;> decide

theorem witness_PollBound :
    Param.default.attempts = [] ∧ Param.default.pollDelayMs ≠ 0 ∧ Param.default.pollDelayMs = 10 ∧
      State.reset.status.busy = false ∧
      after (exec (.fceExchange 0x02 0) State.reset) (fun t => decide (t.status.busy = true)) = true ∧
      after (engineStep (running .exchange .pollWait [] 9 0 9)) (fun _ => true) = true := by decide

/-- No call, each of the three data exchanges with the sizes of R205, and both key types. -/
theorem witness_CommandCodesStart :
    State.reset.client.call = none ∧ State.reset.client.args.dataExchange = .authenticateBlock ∧
      State.reset.client.args.key.length = 6 ∧ State.reset.client.args.keyType = .keyA ∧
      (if Args.reset.keyType = .keyA then 0x60#8 else 0x61#8) = 0x60#8 ∧
      (if ({ Args.reset with keyType := .keyB } : Args).keyType = .keyA then 0x60#8 else 0x61#8) = 0x61#8 ∧
      ({ Args.reset with uid := [1, 2, 3, 4] } : Args).uid.length ≤ 4 ∧
      ({ Args.reset with dataExchange := .readMemoryBlock } : Args).outSize = 16 ∧
      ({ Args.reset with dataExchange := .writeMemoryBlock } : Args).data.length = 16 := by decide

/-- Five and seven bytes for a key, fifteen and seventeen for a block to write and for a buffer to read into. -/
theorem witness_FixedSizes :
    (hostWith (List.replicate 5 0)).client.call = none ∧
      (hostWith (List.replicate 5 0)).client.args.dataExchange = .authenticateBlock ∧
      (hostWith (List.replicate 5 0)).client.args.key.length ≠ 6 ∧
      (hostWith (List.replicate 7 0)).client.args.key.length ≠ 6 ∧
      ({ Args.reset with outSize := 15 } : Args).outSize ≠ 16 ∧ ({ Args.reset with outSize := 17 } : Args).outSize ≠ 16 ∧
      ({ Args.reset with data := List.replicate 15 0 } : Args).data.length ≠ 16 ∧
      ({ Args.reset with data := List.replicate 17 0 } : Args).data.length ≠ 16 := by decide

/-- A call at each phase, its payload at the ends of PBUF and of PLEN, on a free block, on a busy one, and on one whose operation
runs, ended OK, and failed. -/
theorem witness_CallSteps :
    (calling .saveBus).payload.length ≤ 255 ∧ (List.replicate 255 (0 : Byte)).length ≤ 255 ∧
      255 < (List.replicate 256 (0 : Byte)).length ∧ (calling .forceBus).phase = .forceBus ∧
      (inCall .writeTimeout).status.busy = false ∧ (running .sendCheckAck .pollWait [] 9 0 9).status.busy = true ∧
      ({ calling (.writePayload 252) with payload := List.replicate 255 0 } : Call).payload[252]? = some 0 ∧
      ({ calling (.writePayload 253) with payload := List.replicate 255 0 } : Call).payload[253]? = some 0 ∧
      ({ calling (.writePayload 254) with payload := List.replicate 255 0 } : Call).payload[254]? = some 0 ∧
      (calling (.writePayload 0)).payload[0]? = none ∧
      (running .sendCheckAck .pollWait [] 9 0 9).status.done = false ∧
      ({ Status.reset with done := true, ok := true, fsm := .success, respLen := 255 } : Status).done = true ∧
      254 < 255 ∧ 255 ≤ (0xFF : Byte).toNat ∧ (calling (.restoreBus true)).phase = .restoreBus true := by
  refine ⟨by decide, by rw [List.length_replicate], by rw [List.length_replicate]; decide, rfl, rfl, rfl, ?_, ?_, ?_, rfl,
    rfl, rfl, by decide, by decide, rfl⟩ <;> exact List.getElem?_replicate_of_lt (by decide)

/-- Each clause's phase, a payload of 256 bytes among them, and a saved configuration. -/
theorem witness_GuardRestores :
    after (callStep (calling .saveBus) (inCall .saveBus)) (fun t => decide (t.client.call ≠ none)) = true ∧
      after (callStep (calling .forceBus) (inCall .forceBus)) (fun _ => true) = true ∧
      after (callStep (calling .waitSend) (inCall .waitSend)) (fun _ => true) = true ∧
      (inCall (.restoreBus false)).client.call = some (calling (.restoreBus false)) ∧
      after (callStep (calling (.restoreBus false)) (inCall (.restoreBus false)))
        (fun t => decide (t.client.call = none)) = true ∧
      (255 < (List.replicate 256 (0 : Byte)).length ∧
        ∃ t, callStep { calling .saveBus with payload := List.replicate 256 0 } State.reset = .next t ∧
          t.client.call = none) ∧
      ({ Client.reset with backup := some BusSettings.reset } : Client).backup = some BusSettings.reset :=
  ⟨by decide, by decide, by decide, rfl, by decide,
    ⟨by rw [List.length_replicate]; decide, _,
      congrArg Host.Outcome.next (if_neg (by show ¬ (List.replicate 256 (0 : Byte)).length ≤ 255; rw [List.length_replicate]; decide)),
      rfl⟩, rfl⟩

theorem witness_Sentinels :
    (calling .waitRead).phase = .waitRead ∧ (State.reset.fail .timeout).status.done = true ∧
      (State.reset.fail .timeout).status.ok = false ∧ (calling (.restoreBus false)).phase = .restoreBus false := by decide

/-- Both values of a status byte exist, wherever it stands. -/
theorem witness_StatusBytes :
    (∃ got : List Byte, payloadByte got Config.statusPos = 0) ∧ (∃ got : List Byte, payloadByte got Config.statusPos ≠ 0) ∧
      (∃ got : List Byte, payloadByte got Config.targetCountPos = 0) := by
  refine ⟨⟨List.replicate (Config.statusPos + 1) 0, ?_⟩, ⟨List.replicate (Config.statusPos + 1) 0x14, ?_⟩,
    ⟨List.replicate (Config.targetCountPos + 1) 0, ?_⟩⟩ <;> simp [payloadByte]

end Sys2Proof.Tests
end

section
/-! PROOFS. The scope: what a command code leaves unchanged, and which agent a step runs. -/

namespace Sys2Proof.Machine

/-! ### Command codes -/

/-- A command code writes the call, its result and its block, and nothing else of the machine (log 15). -/
theorem exec_command_writes_call {i : Instr} {s t : State} (hi : isOperation i = false) (h : exec i s = .next t) :
    ∃ call result block, t = { s with client := { s.client with call := call, result := result, block := block } } := by
  obtain ⟨k, c, hk⟩ := exec_command hi s
  rw [hk] at h
  obtain ⟨-, ht | ⟨r, ht⟩⟩ := startCall_cases h
  · exact ⟨_, _, _, ht⟩
  · exact ⟨_, _, _, ht⟩

/-- Settles O22: a command code writes only the call, its result and its block, and none of the fields named is among
them. -/
theorem frameCommandCodes : Obligations.FrameCommandCodes := by
  intro i s t hi h
  obtain ⟨call, result, block, rfl⟩ := exec_command_writes_call hi h
  have hblock : sameBlock s { s with client := { s.client with call := call, result := result, block := block } } := by
    simp [sameBlock]
  exact ⟨hblock, fun _ => rfl, rfl, rfl, rfl, rfl, rfl, rfl, rfl, rfl⟩

/-! ### Accesses inside the window -/

theorem Param.offsetOf_add (p : Param) {off : Nat} (h : off < 4096) : p.offsetOf (p.fceBase + off) = some off := by
  rw [Param.offsetOf, if_pos (by omega), Nat.add_sub_cancel_left]

theorem hostAccess_read (w : Width) {off : Nat} (s : State) (h : off < 4096) :
    hostAccess (.read w (s.param.fceBase + off)) s = .next (s.logRead (windowRead w off s)) := by
  rw [hostAccess, Param.offsetOf_add _ h]

theorem hostAccess_write (w : Width) {off : Nat} (v : HostData) (s : State) (h : off < 4096) :
    hostAccess (.write w (s.param.fceBase + off) v) s = windowWrite w off v s := by
  rw [hostAccess, Param.offsetOf_add _ h]

/-- A 32-bit write of a legal word at OP is the instruction (30_encoding.md R91). -/
theorem windowWrite_op {v : HostData} {i : Instr} (s : State) (h : decode (.opWord (v.setWidth 32)) = .ok i) :
    windowWrite .w32 (Reg.offset .op) v s = exec i s := by
  show opWrite (v.setWidth 32) s = exec i s
  rw [opWrite, h]

/-- A listed command code of the host's program is the instruction (30_encoding.md R106). -/
theorem hostOp_command {c : Byte} {i : Instr} (s : State) (h : decode (.cmdByte c) = .ok i) :
    hostOp (.command c) s = exec i s := by
  rw [hostOp, h]

/-! ### The turns of a step -/

theorem step_engine {s : State} (h : s.nextTurn = .engine) : step s = engineStep s.takeTurn := by
  rw [step, h, runTurn]

theorem step_reset {s : State} (h : s.nextTurn = .reset) : step s = .next s.takeTurn.resetBlock := by
  rw [step, h, runTurn]

theorem step_host {s : State} (h : s.nextTurn = .host) : step s = hostTurn s.takeTurn := by
  rw [step, h, runTurn]

theorem hostTurn_call {s : State} {c : Call} (h : s.client.call = some c) : hostTurn s = callStep c s := by
  rw [hostTurn, h]

theorem hostTurn_idle {s : State} (hc : s.client.call = none) (hp : s.client.program = []) : hostTurn s = .next s := by
  rw [hostTurn, hc, hp]

theorem hostTurn_operation {s : State} {o : HostOp} {rest : List HostOp} (hc : s.client.call = none)
    (hp : s.client.program = o :: rest) :
    hostTurn s = hostOp o { s with client := { s.client with program := rest } } := by
  rw [hostTurn, hc, hp]

/-- Settles O7: a step by its turn, and a turn of the host by its call and its program. The clauses about an operation of the
program all follow from the first, that the step is the operation at the state it is taken from. -/
theorem stepRunsOneAgent : Obligations.StepRunsOneAgent := by
  rintro s u rfl
  refine ⟨step_engine, step_reset, fun ht c hc => ?_, fun ht hc hp => ?_, ?_⟩
  · rw [step_host ht]
    exact hostTurn_call hc
  · rw [step_host ht]
    exact hostTurn_idle hc hp
  · rintro rest v ht hc rfl
    have hop : ∀ o, s.client.program = o :: rest →
        step s = hostOp o { s.takeTurn with client := { s.client with program := rest } } := fun o hp => by
      rw [step_host ht]
      exact hostTurn_operation hc hp
    refine ⟨hop, fun a hp => hop _ hp, fun w off ho hp => ?_, fun w off d ho hp => ?_, fun d i hp hd => ?_,
      fun c i hp hd => ?_⟩
    · exact (hop _ hp).trans (hostAccess_read w _ ho)
    · exact (hop _ hp).trans (hostAccess_write w d _ ho)
    · exact (hop _ hp).trans ((hostAccess_write .w32 (off := Reg.offset .op) d _ (by decide)).trans (windowWrite_op _ hd))
    · exact (hop _ hp).trans (hostOp_command _ hd)

end Sys2Proof.Machine
end

section
/-! PROOFS. What a host operation and a reset leave, and that every step of every agent keeps the invariant. -/

namespace Sys2Proof.Machine

/-! ### What an accepted operation leaves -/

/-- What an operation word leaves of the state `s` that its acceptance made (30_encoding.md R91). -/
inductive Performed (s : State) : State → Prop where
  | failed (e : Err) (he : e ≠ .noError) : Performed s (s.fail e)
  | encoded (cmd plen : Byte) (hl : s.tooLong plen = false) : Performed s (s.encodeInto cmd plen).succeed
  | decoded (cmd plen : Byte) : Performed s (s.setResponse cmd plen).succeed
  | matched : Performed s s.succeed
  | sending (k : OpKind) (cmd plen : Byte) (hk : k ≠ .none) (hl : s.tooLong plen = false) :
      Performed s ((s.encodeInto cmd plen).startBus k cmd)
  | reading (cmd : Byte) : Performed s (s.startBus .readResponse cmd)

theorem performEncode_performed (cmd plen : Byte) (s : State) : Performed s (performEncode cmd plen s) := by
  rcases performEncode_cases cmd plen s with ⟨-, h⟩ | ⟨hl, h⟩ <;> rw [h]
  · exact .failed _ (by decide)
  · exact .encoded cmd plen hl

theorem performDecode_performed (t : Byte) (s : State) : Performed s (performDecode t s) := by
  rcases performDecode_cases t s with ⟨e, he, h⟩ | ⟨cmd, plen, -, h⟩ <;> rw [h]
  · exact .failed e he
  · exact .decoded cmd plen

theorem performCheckAck_performed (s : State) : Performed s (performCheckAck s) := by
  rcases performCheckAck_cases s with ⟨e, he, h⟩ | h <;> rw [h]
  · exact .failed e he
  · exact .matched

theorem performSend_performed {k : OpKind} (hk : k ≠ .none) (cmd plen : Byte) (s : State) :
    Performed s (performSend k cmd plen s) := by
  rcases performSend_cases k cmd plen s with ⟨-, h⟩ | ⟨hl, h⟩ <;> rw [h]
  · exact .failed _ (by decide)
  · exact .sending k cmd plen hk hl

/-- A word written under the busy rule is rejected, or accepted and performed. -/
theorem acceptOp_performed {v : Word} {f : State → State} {s t : State} (hf : ∀ u, Performed u (f u))
    (h : acceptOp v f s = .next t) :
    (s.status.busy = true ∧ t = s.rejected) ∨ (s.status.busy = false ∧ ∃ w, Performed (s.accept w) t) := by
  rcases acceptOp_cases h with hr | ⟨hb, rfl⟩
  · exact .inl hr
  · exact .inr ⟨hb, v, hf _⟩

/-- Everything an operation word can do: rejected while BUSY, else accepted and performed. -/
theorem exec_operation_performed {i : Instr} {s t : State} (hi : isOperation i = true) (h : exec i s = .next t) :
    (s.status.busy = true ∧ t = s.rejected) ∨ (s.status.busy = false ∧ ∃ w, Performed (s.accept w) t) := by
  cases i with
  | fceEncode c p => exact acceptOp_performed (performEncode_performed c p) h
  | fceDecode c p => exact acceptOp_performed (performDecode_performed _) h
  | fceDecodeLoop c p => exact acceptOp_performed (performDecode_performed _) h
  | fceCheckAck c p => exact acceptOp_performed performCheckAck_performed h
  | fceSendAck c p => exact acceptOp_performed (performSend_performed (by decide) c p) h
  | fceReadResp c p => exact acceptOp_performed (fun _ => .reading c) h
  | fceExchange c p => exact acceptOp_performed (performSend_performed (by decide) c p) h
  | _ => cases hi

/-- Everything an instruction can do: a command code writes the host's side alone, an operation word is rejected while
BUSY, else accepted and performed. -/
theorem exec_cases {i : Instr} {s t : State} (h : exec i s = .next t) :
    hostSide s t ∨ (s.status.busy = true ∧ t = s.rejected) ∨
      (s.status.busy = false ∧ ∃ w, Performed (s.accept w) t) := by
  cases hi : isOperation i
  · obtain ⟨call, result, block, rfl⟩ := exec_command_writes_call hi h
    exact .inl rfl
  · exact .inr (exec_operation_performed hi h)

/-! ### The invariant over the host's steps -/

/-- The invariant says nothing of the host's side. -/
theorem Inv.hostSide {s t : State} (hi : Inv s) (h : hostSide s t) : Inv t := by
  rw [h]
  exact hi.congr rfl rfl rfl rfl rfl rfl rfl rfl rfl rfl rfl

theorem Inv.takeTurn {s : State} (hi : Inv s) : Inv s.takeTurn :=
  hi.congr rfl rfl rfl rfl rfl rfl rfl rfl rfl rfl rfl

/-- An operation accepted on a block with BUSY 0 leaves the invariant. -/
theorem Performed.keeps_inv {s t : State} (hi : Inv s) (hb : s.status.busy = false) {w : Word}
    (h : Performed (s.accept w) t) : Inv t := by
  have hcs : s.status.cs = false := (hi.free hb).1
  have hl : bracket s.trace = some false := hcs ▸ hi.line
  cases h with
  | failed e he => exact hi.acceptFail w he
  | encoded c p ht =>
    exact Inv.finish (State.encodeInto_wf (s := s.accept w) hi.memory c ht) (Nat.zero_le _) hi.line true _ nofun nofun
  | decoded c p =>
    exact Inv.finish (s := (s.accept w).setResponse c p) hi.memory (Nat.zero_le _) hi.line true _ nofun nofun
  | matched => exact Inv.finish (s := s.accept w) hi.memory (Nat.zero_le _) hi.line true _ nofun nofun
  | sending k c p hk ht =>
    exact Inv.startBus (State.encodeInto_wf (s := s.accept w) hi.memory c ht) hl k c hk
      (fun _ => State.encodeInto_frameReady c ht) hcs rfl rfl rfl ⟨rfl, rfl⟩ rfl
  | reading c => exact Inv.startBus (s := s.accept w) hi.memory hl _ c (by decide) nofun hcs rfl rfl rfl ⟨rfl, rfl⟩ rfl

/-- Every instruction keeps the invariant. -/
theorem exec_keeps_inv {i : Instr} {s t : State} (hi : Inv s) (h : exec i s = .next t) : Inv t := by
  obtain hs | ⟨-, rfl⟩ | ⟨hb, w, hp⟩ := exec_cases h
  · exact hi.hostSide hs
  · exact hi.rejected
  · exact hp.keeps_inv hi hb

/-- Every host write keeps the invariant (20_memory.md R73, R75). -/
theorem HostWrite.keeps_inv {s t : State} (hi : Inv s) (h : HostWrite s t) : Inv t := by
  cases h with
  | ignored => exact hi
  | rejected hb => exact hi.rejected
  | tmo hb v => exact hi.free_congr hb rfl hi.memory rfl rfl rfl rfl
  | rxn hb v => exact hi.free_congr hb rfl hi.memory rfl rfl rfl rfl
  | byte hb off b ho => exact hi.free_congr hb rfl (Memory.wf_set hi.memory ho) rfl rfl rfl rfl
  | operation i t h => exact exec_keeps_inv hi h
  | illegal hb v => exact hi.acceptFail v (by decide)

theorem hostTurn_keeps_inv {s t : State} (hi : Inv s) (h : hostTurn s = .next t) : Inv t := by
  obtain ⟨r, u, hr, hw, ht⟩ := hostTurn_cases h
  exact (hw.keeps_inv (hi.hostSide hr)).hostSide ht

/-! ### The invariant over a reset and a step -/

/-- A reset leaves the invariant: the trace it leaves is a bracketed one with the line released (70_reset R251, R252). -/
theorem Inv.resetBlock {s : State} (hi : Inv s) : Inv s.resetBlock where
  memory := ⟨.nil, nofun⟩
  busy := rfl
  opk := rfl
  done := rfl
  ok := rfl
  err := iff_of_false (fun h => h rfl) nofun
  cs := rfl
  response _ := ⟨rfl, rfl⟩
  attempts := Nat.le_refl _
  bound := nofun
  line := bracket_csRelease hi.line
  stage := trivial

/-- Settles O44: the host's turn by what a host write can leave, the engine's by its moves, and the reset. -/
theorem stepKeepsInv : Obligations.StepKeepsInv := by
  intro s t hi h
  cases hn : s.nextTurn with
  | host => exact hostTurn_keeps_inv hi.takeTurn ((step_host hn).symm.trans h)
  | engine => exact (engineStep_move ((step_engine hn).symm.trans h)).keeps_inv hi.takeTurn
  | reset =>
    cases (step_reset hn).symm.trans h
    exact hi.takeTurn.resetBlock

end Sys2Proof.Machine
end

section
/-! PROOFS. The registers and the reserved offsets as the host reads them. -/

namespace Sys2Proof.Machine

/-! ### Reserved offsets -/

/-- The reserved ranges of 10_state.md R42 are the window's reserved region. -/
theorem regionOf_reserved {off : Nat} (h : reservedOffset off) : regionOf off = .reserved := by
  rcases regionOf_cases off with ⟨r, rfl, -⟩ | ⟨hlt, -⟩ | ⟨hlo, hhi, -⟩ | ⟨hlo, hhi, -⟩ | ⟨hlo, hhi, -⟩ | ⟨hlo, hhi, -⟩ |
    ⟨-, -, hr⟩
  · cases r <;> simp [Reg.offset, reservedOffset] at h
  · omega
  · omega
  · omega
  · omega
  · omega
  · exact hr

/-- A write at a reserved offset has no effect, whatever its width. -/
theorem windowWrite_reserved {w : Width} {off : Nat} (v : HostData) (s : State) (h : regionOf off = .reserved) :
    windowWrite w off v s = .next s := by
  unfold windowWrite
  cases w <;> rw [h]

/-- Settles O25: each reserved range lies in the reserved region, where a write is ignored and a read gives zero. -/
theorem reservedOffsets : Obligations.ReservedOffsets := by
  intro s w off v h
  have hr := regionOf_reserved h
  exact ⟨windowWrite_reserved v s hr, windowRead_reserved s hr⟩

/-! ### Registers as numbers -/

/-- A 32-bit read at a register's offset gives its word (20_memory.md R71). -/
theorem windowRead_reg (r : Reg) (s : State) : windowRead .w32 r.offset s = (s.regWord r).setWidth 64 := by
  simp only [windowRead, regionOf_offset]

/-- The host's wider data holds the register's word. -/
theorem windowRead_reg_toNat (r : Reg) (s : State) : (windowRead .w32 r.offset s).toNat = (s.regWord r).toNat := by
  rw [windowRead_reg, BitVec.toNat_setWidth_of_le (by decide)]

/-- STATUS as the sum of its fields (10_state.md R23). -/
theorem Status.word_toNat (st : Status) :
    st.word.toNat =
      st.busy.toNat + 2 * st.done.toNat + 4 * st.ok.toNat + 8 * st.err.code.toNat + 64 * st.cs.toNat +
        128 * st.rej.toNat + 256 * st.fsm.code.toNat + 65536 * st.respCmd.toNat + 16777216 * st.respLen.toNat := by
  simp only [Status.word, append_toNat, BitVec.toNat_ofBool, BitVec.toNat_ofNat]
  omega

/-- PARAM as the sum of its fields (10_state.md R37). -/
theorem Param.word_toNat (p : Param) :
    p.word.toNat =
      p.maxPlen.val + 256 * p.repoll.toNat + 512 * p.xferPrefix.bit.toNat + 65536 * p.pollDelayMs.toNat := by
  have hlt := p.maxPlen.isLt
  simp only [Param.word, append_toNat, BitVec.toNat_ofBool, BitVec.toNat_ofNat]
  omega

/-- Settles O29: the word read at STATUS's offset as the sum of its fields, and the two lists of codes. -/
theorem statusWord : Obligations.StatusWord :=
  ⟨fun s => (windowRead_reg_toNat .status s).trans s.status.word_toNat, rfl, rfl⟩

/-- Settles O30: the word read at each register's offset, and each word as the sum of its fields. -/
theorem registerWords : Obligations.RegisterWords := by
  intro s
  have hpoll : (s.limit ++ s.att).toNat = s.att.toNat + 65536 * s.limit.toNat := by rw [append_toNat]; omega
  exact ⟨windowRead_reg .op s,
    (windowRead_reg_toNat .tmo s).trans (BitVec.toNat_setWidth_of_le (by decide)),
    (windowRead_reg_toNat .rxn s).trans (BitVec.toNat_setWidth_of_le (by decide)),
    (windowRead_reg_toNat .txn s).trans (BitVec.toNat_setWidth_of_le (by decide)),
    (windowRead_reg_toNat .poll s).trans hpoll,
    (windowRead_reg_toNat .statb s).trans (BitVec.toNat_setWidth_of_le (by decide)),
    (windowRead_reg_toNat .param s).trans s.param.word_toNat⟩

end Sys2Proof.Machine
end

section
/-! PROOFS. What an engine step leaves alone. -/

namespace Sys2Proof.Machine

/-- The registers, the host's side and the flag REJ that no engine step writes. -/
theorem EngineMove.keeps_registers {s t : State} (h : EngineMove s t) :
    t.op = s.op ∧ t.tmo = s.tmo ∧ t.txn = s.txn ∧ t.limit = s.limit ∧ t.cmdl = s.cmdl ∧ t.param = s.param ∧
      t.status.rej = s.status.rej ∧ t.client = s.client ∧ t.transport = s.transport ∧ t.turns = s.turns ∧
      t.tick = s.tick := by
  cases h <;> simp [State.succeed_eq, State.fail_eq]

/-- What an engine step writes of the buffers: one byte of ACKR in VERIFY_ACK, one of RXF in READ_HDR and READ_BODY. -/
theorem EngineMove.mem_cases {s t : State} (h : EngineMove s t) :
    t.mem = s.mem ∨
      (s.status.fsm = .verifyAck ∧ ∃ i b, i < ackrSize ∧ t.mem = Memory.set (ackrBase + i) b s.mem) ∨
      ((s.status.fsm = .readHdr ∨ s.status.fsm = .readBody) ∧
        ∃ i b, i < rxfSize ∧ t.mem = Memory.set (rxfBase + i) b s.mem) := by
  cases h with
  | ackByte hb hf hi | ackThenPoll hb hf hi | ackThenRead hb hf hi => exact .inr (.inl ⟨hf, _, _, hi, rfl⟩)
  | ackBad hb hf hi | ackGood hb hf hi => exact .inr (.inl ⟨hf, _, _, hi, State.finish_mem _ _ _⟩)
  | header hb hf hi | headerGood hb hf hi => exact .inr (.inr ⟨.inl hf, _, _, hi, rfl⟩)
  | headerBad hb hf hi => exact .inr (.inr ⟨.inl hf, _, _, hi, State.finish_mem _ _ _⟩)
  | body hb hf hi => exact .inr (.inr ⟨.inr hf, _, _, hi, rfl⟩)
  | bodyBad hb hf hi | bodyGood hb hf hi => exact .inr (.inr ⟨.inr hf, _, _, hi, State.finish_mem _ _ _⟩)
  | timeout => exact .inl (State.finish_mem _ _ _)
  | _ => exact .inl rfl

/-- A byte that is neither ACKR's in VERIFY_ACK nor RXF's in READ_HDR and READ_BODY reads the same after an engine step. -/
theorem EngineMove.readByte {s t : State} (h : EngineMove s t) {off : Nat}
    (ha : s.status.fsm = .verifyAck → ¬ (0x600 ≤ off ∧ off ≤ 0x605))
    (hr : s.status.fsm = .readHdr ∨ s.status.fsm = .readBody → ¬ (0x400 ≤ off ∧ off ≤ 0x505)) :
    t.readByte off = s.readByte off := by
  obtain ⟨-, -, -, -, -, -, -, -, -, -, htick⟩ := h.keeps_registers
  refine State.readByte_congr ?_ htick
  rcases h.mem_cases with hm | ⟨hf, i, b, hi, hm⟩ | ⟨hf, i, b, hi, hm⟩ <;> rw [hm]
  · have := ha hf
    rw [Memory.get_set, if_neg (by simp only [ackrSize, ackrBase] at *; omega)]
  · have := hr hf
    rw [Memory.get_set, if_neg (by simp only [rxfSize, rxfBase] at *; omega)]

/-- RXN outside READ_HDR and READ_BODY: only the entry to READ_HDR writes it, with 0 (10_state.md R43, log 13). -/
theorem EngineMove.rxn {s t : State} (h : EngineMove s t) (h1 : s.status.fsm ≠ .readHdr) (h2 : s.status.fsm ≠ .readBody) :
    t.rxn = if t.status.fsm = .readHdr then 0 else s.rxn := by
  cases h with
  | quiet => rw [if_neg h1]
  | startRead | readyRead | ackThenRead => rfl
  | header hb hf | headerGood hb hf | headerBad hb hf => exact absurd hf h1
  | body hb hf | bodyBad hb hf | bodyGood hb hf => exact absurd hf h2
  | _ => simp [State.succeed_eq, State.fail_eq, *]

/-- STATB is written in AWAIT_READY alone (41_handshake.md R157). -/
theorem EngineMove.statb {s t : State} (h : EngineMove s t) (hf : s.status.fsm ≠ .awaitReady) : t.statb = s.statb := by
  cases h with
  | readyAck _ h | readyRead _ h | timeout _ h | notReady _ h => exact absurd h hf
  | _ => simp [State.succeed_eq, State.fail_eq]

/-- Settles O40: the registers no move writes, and the one byte a move may write. -/
theorem engineFrame : Obligations.EngineFrame := by
  intro s t h
  have hm := engineStep_move h
  obtain ⟨hop, htmo, htxn, hlimit, hcmdl, hparam, hrej, hclient, htransport, hturns, htick⟩ := hm.keeps_registers
  refine ⟨hop, htmo, htxn, hlimit, hcmdl, hparam, hrej, hclient, htransport, hturns, htick, ?_, ?_, ?_, hm.statb⟩
  · exact fun off hrxf hackr => hm.readByte (fun _ => hackr) (fun _ => hrxf)
  · exact fun hf off ho => hm.readByte (fun h => absurd h hf) (fun _ => by omega)
  · exact fun h1 h2 => ⟨hm.rxn h1 h2, fun off ho => hm.readByte (fun _ => by omega) (fun h => absurd h (by simp [h1, h2]))⟩

end Sys2Proof.Machine
end

section
/-! PROOFS. The flags of STATUS in a state that keeps the invariant. -/

namespace Sys2Proof.Machine

/-- The states in which an operation is in progress, listed (10_state.md R24). -/
theorem Fsm.running_iff (f : Fsm) :
    f.running = true ↔ f ∈ [Fsm.start, .sending, .awaitReady, .pollWait, .verifyAck, .readHdr, .readBody] := by
  cases f <;> decide

/-- A response is read with RXN equal to IDX (10_state.md R43). -/
theorem Inv.rxn_eq_idx {s : State} (hi : Inv s) (h : s.status.fsm = .readHdr ∨ s.status.fsm = .readBody) :
    s.rxn = s.idx := by
  have hst := hi.stage
  rcases h with hf | hf <;> simp only [State.stage, hf] at hst
  · obtain ⟨-, -, -, hrxn⟩ := hst
    exact hrxn
  · obtain ⟨-, -, hrxn, -⟩ := hst
    exact hrxn

/-- OK says that the engine rests in SUCCESS (10_state.md R26). -/
theorem Inv.ok_iff {s : State} (hi : Inv s) : s.status.ok = true ↔ s.status.fsm = .success := by
  rw [hi.ok, decide_eq_true_iff]

/-- Settles O42: each flag from what the invariant says of STATUS.FSM. -/
theorem flagsAgree : Obligations.FlagsAgree := by
  intro s hi
  refine ⟨?_, ?_, fun hok => ?_, fun hcs => ?_, fun hok => ?_, hi.rxn_eq_idx⟩
  · rw [hi.busy, Fsm.running_iff]
  · rintro ⟨hd, hb⟩
    rw [(hi.running hb).done] at hd
    cases hd
  · have hf := hi.ok_iff.mp hok
    have he : ¬ s.status.err ≠ .noError := fun he => by simp [hi.err.mp he] at hf
    exact ⟨not_not.mp he, by simp [hi.done, hf]⟩
  · rw [hi.cs] at hcs
    exact (Bool.and_eq_true_iff.mp hcs).1
  · exact hi.response (fun hf => by simp [hi.ok_iff.mpr hf] at hok)

end Sys2Proof.Machine
end

section
/-! PROOFS. The trace and the parameters over a step of every agent. -/

namespace Sys2Proof.Machine

/-- Releasing chip-select appends its event when the line was asserted, else nothing (60_exceptions.md R226). -/
theorem State.csRelease_trace_cases (s : State) :
    s.csRelease.trace = s.trace ∨ s.status.cs = true ∧ s.csRelease.trace = s.trace ++ [.csDeassert] := by
  cases hc : s.status.cs <;> simp [State.csRelease_trace, hc]

theorem State.csRelease_trace_prefix (s : State) : s.trace <+: s.csRelease.trace := by
  rcases s.csRelease_trace_cases with h | ⟨-, h⟩ <;> rw [h]
  exact List.prefix_append _ _

/-- One event and then the release extend the trace. -/
theorem State.trace_prefix_of_emitted {s : State} (u : State) {e : BusEvent} (h : u.trace = s.trace ++ [e]) :
    s.trace <+: u.csRelease.trace :=
  (h ▸ List.prefix_append s.trace [e] : s.trace <+: u.trace).trans u.csRelease_trace_prefix

/-- Every move of the engine extends the trace. -/
theorem EngineMove.trace_prefix {s t : State} (h : EngineMove s t) : s.trace <+: t.trace := by
  cases h with
  | quiet => exact List.prefix_rfl
  | timeout => exact State.trace_prefix_of_emitted s.polled rfl
  | ackBad | ackGood => exact State.trace_prefix_of_emitted s.ackReceived rfl
  | headerBad | bodyBad => exact State.trace_prefix_of_emitted s.receiveByte rfl
  | bodyGood _ _ _ _ cmd plen => exact State.trace_prefix_of_emitted (s.receiveByte.setResponse cmd plen) rfl
  | _ => exact List.prefix_append _ _

/-- Of the trace an accepted operation can only release chip-select. -/
theorem Performed.trace_cases {s t : State} (h : Performed s t) :
    t.trace = s.trace ∨ s.status.cs = true ∧ t.trace = s.trace ++ [.csDeassert] := by
  cases h with
  | failed | matched => exact s.csRelease_trace_cases
  | encoded cmd plen => exact (s.encodeInto cmd plen).csRelease_trace_cases
  | decoded cmd plen => exact (s.setResponse cmd plen).csRelease_trace_cases
  | sending | reading => exact .inl rfl

theorem Performed.param {s t : State} (h : Performed s t) : t.param = s.param := by
  cases h with
  | sending | reading => rfl
  | _ => exact State.finish_param _ _ _

/-- Of the trace a host write can only release chip-select, and only where BUSY is 0. -/
theorem HostWrite.trace_cases {s t : State} (h : HostWrite s t) :
    t.trace = s.trace ∨ s.status.busy = false ∧ s.status.cs = true ∧ t.trace = s.trace ++ [.csDeassert] := by
  have haccept : ∀ {w : Word} {t : State}, s.status.busy = false → Performed (s.accept w) t →
      t.trace = s.trace ∨ s.status.busy = false ∧ s.status.cs = true ∧ t.trace = s.trace ++ [.csDeassert] :=
    fun hb hp => hp.trace_cases.imp_right (fun ht => ⟨hb, ht⟩)
  cases h with
  | operation i t h =>
    obtain hs | ⟨-, rfl⟩ | ⟨hb, w, hp⟩ := exec_cases h
    · exact .inl (by rw [hs])
    · exact .inl rfl
    · exact haccept hb hp
  | illegal hb v => exact haccept hb (.failed (s := s.accept v) .illegalOp (by decide))
  | _ => exact .inl rfl

/-- No host write changes a parameter (10_state.md R37). -/
theorem HostWrite.param {s t : State} (h : HostWrite s t) : t.param = s.param := by
  cases h with
  | operation i t h =>
    obtain hs | ⟨-, rfl⟩ | ⟨-, w, hp⟩ := exec_cases h
    · rw [hs]
    · rfl
    · exact hp.param
  | illegal hb v => exact State.finish_param _ _ _
  | _ => rfl

/-- A turn of the host is a host write, for whatever does not lie on the host's own side. -/
theorem hostTurn_trace_cases {s t : State} (h : hostTurn s = .next t) :
    t.trace = s.trace ∨ s.status.busy = false ∧ s.status.cs = true ∧ t.trace = s.trace ++ [.csDeassert] := by
  obtain ⟨r, u, hr, hw, ht⟩ := hostTurn_cases h
  rw [ht]
  rw [hr] at hw
  exact hw.trace_cases

theorem hostTurn_param {s t : State} (h : hostTurn s = .next t) : t.param = s.param := by
  obtain ⟨r, u, hr, hw, ht⟩ := hostTurn_cases h
  rw [ht]
  rw [hr] at hw
  exact hw.param

/-- Settles O50: each agent's turn; the host appends nothing under the invariant, because with BUSY 0 chip-select is
released. -/
theorem traceAndParameters : Obligations.TraceAndParameters := by
  intro s t h
  cases hn : s.nextTurn with
  | host =>
    have hturn := (step_host hn).symm.trans h
    have hparam := hostTurn_param hturn
    obtain ht | ⟨hb, hcs, ht⟩ := hostTurn_trace_cases hturn
    · exact ⟨by rw [ht]; exact List.prefix_rfl, hparam, fun _ _ => ht⟩
    · refine ⟨by rw [ht]; exact List.prefix_append _ _, hparam, fun hi _ => ?_⟩
      cases (hi.takeTurn.free hb).1.symm.trans hcs
  | engine =>
    have hm := engineStep_move ((step_engine hn).symm.trans h)
    obtain ⟨-, -, -, -, -, hparam, -⟩ := hm.keeps_registers
    exact ⟨hm.trace_prefix, hparam, fun _ => nofun⟩
  | reset =>
    cases (step_reset hn).symm.trans h
    exact ⟨s.takeTurn.csRelease_trace_prefix, rfl, fun _ => nofun⟩

end Sys2Proof.Machine
end

section
/-! PROOFS. The host's accesses: what a write at each place of the window can do, what a read leaves, and the stops. -/

namespace Sys2Proof.Machine

/-! ### The supported accesses -/

/-- The writes that the busy rule speaks of; every other write has no effect (20_memory.md R72, R75). -/
def Width.stores : Width → Region → Bool
  | .w32, .reg r => decide (r = .op ∨ r = .tmo ∨ r = .rxn)
  | .w8, .pbuf => true
  | .w8, .rxf => true
  | _, _ => false

/-- The reads whose value the block gives; every other read returns a free value (20_memory.md R71, R72). -/
def Width.reads : Width → Region → Bool
  | .w32, .reg _ => true
  | .w8, .pbuf => true
  | .w8, .txf => true
  | .w8, .rxf => true
  | .w8, .ackr => true
  | _, .reserved => true
  | _, _ => false

theorem windowWrite_ignored {w : Width} {off : Nat} (v : HostData) (s : State) (h : w.stores (regionOf off) = false) :
    windowWrite w off v s = .next s := by
  unfold windowWrite
  split
  case h_6 => rfl
  all_goals
    rename_i hr
    rw [hr] at h
    cases h

theorem windowRead_free {w : Width} {off : Nat} (s : State) (h : w.reads (regionOf off) = false) :
    windowRead w off s = w.cut (Config.freeData s.tick) := by
  have hres : regionOf off ≠ .reserved := fun hr => by
    rw [hr] at h
    cases w <;> cases h
  unfold windowRead
  split
  case h_6 hr => exact absurd hr hres
  case h_7 => rfl
  all_goals
    rename_i hr
    rw [hr] at h
    cases h

/-! ### Words written to OP -/

theorem isOperation_of_decodeOpc {opc : BitVec 4} {loop : Bool} {cmd plen : Byte} {i : Instr}
    (h : decodeOpc opc loop cmd plen = .ok i) : isOperation i = true := by
  unfold decodeOpc at h
  split at h <;> cases h <;> rfl

/-- An operation word never decodes to a command code (30_encoding.md R92). -/
theorem isOperation_of_decode_opWord {w : Word} {i : Instr} (h : decode (.opWord w) = .ok i) : isOperation i = true := by
  rw [decode, decodeOpWord] at h
  split at h
  · cases h
  · exact isOperation_of_decodeOpc h

/-- A legal word or an illegal one, a write to OP is under the busy rule (20_memory.md R75). -/
theorem opWrite_guarded (v : Word) (s : State) : ∃ f, opWrite v s = .next (s.guardBusy f) := by
  cases hd : decode (.opWord v) with
  | ok i =>
    obtain ⟨w, f, hexec, -⟩ := exec_operation (isOperation_of_decode_opWord hd)
    exact ⟨_, by rw [opWrite, hd]; exact hexec s⟩
  | reject e => exact ⟨_, by rw [opWrite, hd]; rfl⟩

/-- A write to OP of a word that is no operation (60_exceptions.md R221). -/
theorem windowWrite_op_illegal {v : HostData} {e : DecodeError} (s : State)
    (h : decode (.opWord (v.setWidth 32)) = .reject e) :
    windowWrite .w32 (Reg.offset .op) v s = illegalOp (v.setWidth 32) s := by
  show opWrite (v.setWidth 32) s = illegalOp (v.setWidth 32) s
  rw [opWrite, h]

/-! ### Writes under the busy rule -/

theorem windowWrite_tmo (v : HostData) (s : State) :
    windowWrite .w32 (Reg.offset .tmo) v s = .next (s.guardBusy (fun s => { s with tmo := v.setWidth 16 })) := rfl

theorem windowWrite_rxn (v : HostData) (s : State) :
    windowWrite .w32 (Reg.offset .rxn) v s = .next (s.guardBusy (fun s => { s with rxn := v.setWidth 9 })) := rfl

theorem windowWrite_byte {off : Nat} (v : HostData) (s : State) (h : regionOf off = .pbuf ∨ regionOf off = .rxf) :
    windowWrite .w8 off v s = .next (s.guardBusy (fun s => s.writeByte off (v.setWidth 8))) := by
  unfold windowWrite
  rcases h with h | h <;> rw [h]

/-- Every write that stores is under the busy rule. -/
theorem windowWrite_guarded {w : Width} {off : Nat} (v : HostData) (s : State) (h : w.stores (regionOf off) = true) :
    ∃ f, windowWrite w off v s = .next (s.guardBusy f) := by
  unfold windowWrite
  split
  case h_1 => exact opWrite_guarded _ s
  case h_6 hop htmo hrxn hpbuf hrxf =>
    exfalso
    unfold Width.stores at h
    split at h
    · rcases of_decide_eq_true h with rfl | rfl | rfl
      · exact hop rfl ‹_›
      · exact htmo rfl ‹_›
      · exact hrxn rfl ‹_›
    · exact hpbuf rfl ‹_›
    · exact hrxf rfl ‹_›
    · cases h
  all_goals exact ⟨_, rfl⟩

/-- While BUSY a write that would store is rejected: REJ and nothing else (20_memory.md R75). -/
theorem windowWrite_rejected {w : Width} {off : Nat} (v : HostData) {s : State} (hb : s.status.busy = true)
    (h : w.stores (regionOf off) = true) : windowWrite w off v s = .next s.rejected := by
  obtain ⟨f, hf⟩ := windowWrite_guarded v s h
  rw [hf, State.guardBusy_busy s hb]
  rfl

/-- A write at any offset answers a next state. -/
theorem windowWrite_next (w : Width) (off : Nat) (v : HostData) (s : State) : ∃ t, windowWrite w off v s = .next t := by
  cases h : w.stores (regionOf off)
  · exact ⟨s, windowWrite_ignored v s h⟩
  · obtain ⟨f, hf⟩ := windowWrite_guarded v s h
    exact ⟨_, hf⟩

/-! ### The busy rule -/

theorem regionOf_txf {i : Nat} (h : i ≤ 261) : regionOf (txfBase + i) = .txf := by
  unfold regionOf
  rw [if_neg (by unfold txfBase; omega), if_neg (by unfold txfBase pbufBase pbufSize; omega),
    if_pos (by unfold txfSize; omega)]

theorem regionOf_ackr {i : Nat} (h : i ≤ 5) : regionOf (ackrBase + i) = .ackr := by
  unfold regionOf
  rw [if_neg (by unfold ackrBase; omega), if_neg (by unfold ackrBase pbufBase pbufSize; omega),
    if_neg (by unfold ackrBase txfBase txfSize; omega), if_neg (by unfold ackrBase rxfBase rxfSize; omega),
    if_pos (by unfold ackrSize; omega)]

/-- The registers that no write changes (10_state.md R21). -/
theorem stores_readOnly (w : Width) {off : Nat} (h : off ∈ [0x004, 0x010, 0x014, 0x018, 0x01C]) :
    w.stores (regionOf off) = false := by
  have hreg : ∃ r, r ∉ [Reg.op, .tmo, .rxn] ∧ off = r.offset := by
    simp only [List.mem_cons, List.not_mem_nil, or_false] at h
    rcases h with h | h | h | h | h
    · exact ⟨.status, by decide, h⟩
    · exact ⟨.txn, by decide, h⟩
    · exact ⟨.poll, by decide, h⟩
    · exact ⟨.statb, by decide, h⟩
    · exact ⟨.param, by decide, h⟩
  obtain ⟨r, hr, rfl⟩ := hreg
  rw [regionOf_offset]
  cases w with
  | w32 => exact decide_eq_false (by simpa using hr)
  | _ => rfl

/-- Settles O23: while BUSY every write that stores is rejected; with BUSY 0 each stores what its own rule says; a write
that does not store is ignored. -/
theorem busyRule : Obligations.BusyRule := by
  intro s v
  refine ⟨fun hb => ⟨?_, ?_, ?_, fun i hi => ?_, fun i hi => ?_⟩,
    fun hb => ⟨fun i hd => windowWrite_op s hd, fun e hd => ?_, ?_, ?_, fun i hi => ?_, fun i hi => ?_⟩,
    fun w off ho => windowWrite_ignored v s (stores_readOnly w ho), fun w i hi => ?_, fun w i hi => ?_⟩
  · exact windowWrite_rejected v hb rfl
  · exact windowWrite_rejected v hb rfl
  · exact windowWrite_rejected v hb rfl
  · exact windowWrite_rejected (off := pbufBase + i) v hb (by rw [regionOf_pbuf hi]; rfl)
  · exact windowWrite_rejected (off := rxfBase + i) v hb (by rw [regionOf_rxf hi]; rfl)
  · exact (windowWrite_op_illegal s hd).trans (congrArg _ (s.guardBusy_free hb _))
  · exact (windowWrite_tmo v s).trans (congrArg _ (s.guardBusy_free hb _))
  · exact (windowWrite_rxn v s).trans (congrArg _ (s.guardBusy_free hb _))
  · exact (windowWrite_byte v s (.inl (regionOf_pbuf hi))).trans (congrArg _ (s.guardBusy_free hb _))
  · exact (windowWrite_byte v s (.inr (regionOf_rxf hi))).trans (congrArg _ (s.guardBusy_free hb _))
  · exact windowWrite_ignored (off := txfBase + i) v s (by rw [regionOf_txf hi]; cases w <;> rfl)
  · exact windowWrite_ignored (off := ackrBase + i) v s (by rw [regionOf_ackr hi]; cases w <;> rfl)

/-! ### Unsupported accesses -/

theorem Reg.offset_mod_four (r : Reg) : r.offset % 4 = 0 := by cases r <;> rfl

theorem Reg.offset_lt (r : Reg) : r.offset < 0x20 := by cases r <;> decide

/-- Below 0x20 an offset is a register's own or another byte of one (10_state.md R21). -/
theorem regionOf_register {off : Nat} (h : off < 0x020) :
    (∃ r, off = Reg.offset r ∧ regionOf off = .reg r) ∨ regionOf off = .insideReg := by
  rcases regionOf_cases off with hreg | ⟨-, -, hr⟩ | ⟨hlo, -⟩ | ⟨hlo, -⟩ | ⟨hlo, -⟩ | ⟨hlo, -⟩ | ⟨hlo, -⟩
  · exact .inl hreg
  · exact .inr hr
  all_goals omega

/-- A buffer offset lies in its buffer's region (10_state.md R21). -/
theorem regionOf_buffer {off : Nat} (h : bufferOffset off) :
    regionOf off = .pbuf ∨ regionOf off = .txf ∨ regionOf off = .rxf ∨ regionOf off = .ackr := by
  rcases regionOf_cases off with ⟨r, rfl, -⟩ | ⟨hlt, -⟩ | ⟨-, -, hr⟩ | ⟨-, -, hr⟩ | ⟨-, -, hr⟩ | ⟨-, -, hr⟩ | ⟨-, hnot, -⟩
  · have := r.offset_lt
    omega
  · omega
  · exact .inl hr
  · exact .inr (.inl hr)
  · exact .inr (.inr (.inl hr))
  · exact .inr (.inr (.inr hr))
  · exact absurd h hnot

theorem unsupported_register {w : Width} {off : Nat} (h : off < 0x020) (hw : w ≠ .w32 ∨ off % 4 ≠ 0) :
    w.stores (regionOf off) = false ∧ w.reads (regionOf off) = false := by
  rcases regionOf_register h with ⟨r, rfl, hr⟩ | hr <;> rw [hr]
  · have hne : w ≠ .w32 := hw.resolve_right (fun hm => hm r.offset_mod_four)
    cases w with
    | w32 => exact absurd rfl hne
    | _ => exact ⟨rfl, rfl⟩
  · cases w <;> exact ⟨rfl, rfl⟩

theorem unsupported_buffer {w : Width} {off : Nat} (h : bufferOffset off) (hw : w ≠ .w8) :
    w.stores (regionOf off) = false ∧ w.reads (regionOf off) = false := by
  cases w with
  | w8 => exact absurd rfl hw
  | _ => rcases regionOf_buffer h with hr | hr | hr | hr <;> rw [hr] <;> exact ⟨rfl, rfl⟩

/-- Logging a value the host read leaves the block as it is (20_memory.md R74). -/
theorem sameBlock_logRead (s : State) (v : HostData) : sameBlock s (s.logRead v) := by simp [sameBlock]

/-- Settles O24: an unsupported access neither stores nor reads the block, and a read only logs its value. -/
theorem unsupportedAccess : Obligations.UnsupportedAccess := by
  intro s w off v h
  have hnone : w.stores (regionOf off) = false ∧ w.reads (regionOf off) = false := by
    rcases h with ⟨hlt, hw⟩ | ⟨hbuf, hw⟩
    · exact unsupported_register hlt hw
    · exact unsupported_buffer hbuf hw
  obtain ⟨hstores, hreads⟩ := hnone
  refine ⟨windowWrite_ignored v s hstores, windowRead_free s hreads, fun addr t haddr ht => ?_⟩
  rw [hostAccess, haddr] at ht
  cases ht
  exact sameBlock_logRead s _

/-! ### Accesses inside the window and outside it -/

/-- Settles O27: a read logs its value, and a write is ignored or under the busy rule. -/
theorem permittedAccessSucceeds : Obligations.PermittedAccessSucceeds := by
  intro s w off v h
  refine ⟨⟨_, hostAccess_read w s h⟩, ?_⟩
  rw [hostAccess_write w v s h]
  exact windowWrite_next w off v s

/-- Settles O26: a read only logs its value. -/
theorem readsChangeNothing : Obligations.ReadsChangeNothing :=
  fun s w _ h => ⟨_, hostAccess_read w s h, sameBlock_logRead s _, rfl⟩

theorem Param.offsetOf_outside (p : Param) {addr : Nat} (h : addr < p.fceBase ∨ p.fceBase + 4096 ≤ addr) :
    p.offsetOf addr = none := by
  rw [Param.offsetOf, if_neg (by omega)]

/-- A call is refused while another runs (20_memory.md R86, log 20). -/
theorem startCall_refused (k : CallKind) (c : Byte) {s : State} (h : s.client.call.isSome = true) :
    startCall k c s = .refused .concurrentCall := by
  obtain ⟨call, hcall⟩ := Option.isSome_iff_exists.mp h
  rw [startCall, openCall, hcall]

/-- Settles O28: an address outside the window has no offset, and a command code starts a call. -/
theorem namedStops : Obligations.NamedStops := by
  refine ⟨fun s w addr v h => ?_, fun i s hi hs => ?_⟩
  · have hnone := s.param.offsetOf_outside h
    exact ⟨by rw [hostAccess, hnone], by rw [hostAccess, hnone]⟩
  · obtain ⟨k, c, hk⟩ := exec_command hi s
    rw [hk]
    exact startCall_refused k c hs

end Sys2Proof.Machine
end

section
/-! PROOFS. The encoding: decoding and encoding undo each other, the illegal words, the word the next step runs, and the
acceptance of the bus operations. -/

namespace Sys2Proof

/-! ### Decoding an encoding -/

theorem decode_opWordOf {opc : BitVec 4} {loop : Bool} {cmd plen : Byte} {i : Instr}
    (h : decodeOpc opc loop cmd plen = .ok i) : decode (.opWord (opWordOf opc loop cmd plen)) = .ok i :=
  (decodeOpWord_opWordOf opc loop cmd plen).trans h

/-- Settles O3: an operation's word dispatches on its OPC and LOOP, a command code is one of the listed bytes. -/
theorem decodeOfEncode : Obligations.DecodeOfEncode := by
  intro i
  cases i with
  | fceEncode cmd plen => exact decode_opWordOf rfl
  | fceDecode cmd plen => exact decode_opWordOf rfl
  | fceDecodeLoop cmd plen => exact decode_opWordOf rfl
  | fceCheckAck cmd plen => exact decode_opWordOf rfl
  | fceSendAck cmd plen => exact decode_opWordOf rfl
  | fceReadResp cmd plen => exact decode_opWordOf rfl
  | fceExchange cmd plen => exact decode_opWordOf rfl
  | cmdFirmwareVersion => rfl
  | cmdGeneralStatus => rfl
  | cmdSamConfiguration => rfl
  | cmdRfConfiguration => rfl
  | cmdInListPassiveTarget => rfl
  | cmdDataExchange => rfl

/-- A word that an instruction encodes to also decodes to it. -/
theorem decode_and_encode {i : Instr} {e : Encoded} (h : encode i = e) : decode e = .ok i ∧ encode i = e :=
  ⟨h ▸ decodeOfEncode i, h⟩

/-- Settles O1: each instruction encodes to the spec's word, and so is what the word decodes to. -/
theorem encodedExamples : Obligations.EncodedExamples :=
  ⟨decode_and_encode rfl, decode_and_encode rfl, decode_and_encode rfl, decode_and_encode rfl, decode_and_encode rfl,
    decode_and_encode rfl, decode_and_encode rfl⟩

/-! ### Encoding what was decoded -/

/-- The dispatch on OPC and LOOP loses no field: the instruction's word has the OPC and LOOP it was found under. -/
theorem encode_of_decodeOpc {opc : BitVec 4} {loop : Bool} {cmd plen : Byte} {i : Instr}
    (h : decodeOpc opc loop cmd plen = .ok i) : encode i = .opWord (opWordOf opc loop cmd plen) := by
  have hopc : ∀ n : BitVec 4, opc.toNat = n.toNat → opc = n := fun _ => BitVec.eq_of_toNat_eq
  unfold decodeOpc at h
  split at h
  case h_1 hn => cases h; rw [hopc 1#4 hn]; rfl
  case h_2 hn => cases h; rw [hopc 2#4 hn]; rfl
  case h_3 hn => cases h; rw [hopc 2#4 hn]; rfl
  case h_4 hn => cases h; rw [hopc 3#4 hn]; rfl
  case h_5 hn => cases h; rw [hopc 4#4 hn]; rfl
  case h_6 hn => cases h; rw [hopc 5#4 hn]; rfl
  case h_7 hn => cases h; rw [hopc 6#4 hn]; rfl
  all_goals cases h

theorem encode_of_decodeOpWord {w : Word} {i : Instr} (h : decodeOpWord w = .ok i) : encode i = .opWord w := by
  rw [decodeOpWord] at h
  split at h
  case isTrue => cases h
  case isFalse hzero =>
    obtain ⟨hlow, hhigh⟩ := not_or.mp hzero
    rw [encode_of_decodeOpc h, ← opWordOf_fields w (not_not.mp hlow) (not_not.mp hhigh)]

theorem encode_of_decodeCommand {c : Byte} {i : Instr} (h : decodeCommand c = .ok i) : encode i = .cmdByte c := by
  unfold decodeCommand at h
  split_ifs at h with h02 h04 h14 h32 h4A h40 <;> cases h
  · rw [h02]; rfl
  · rw [h04]; rfl
  · rw [h14]; rfl
  · rw [h32]; rfl
  · rw [h4A]; rfl
  · rw [h40]; rfl

/-- Settles O4: by the two encodings of the table. -/
theorem encodeOfDecode : Obligations.EncodeOfDecode := by
  intro e i h
  cases e with
  | opWord w => exact encode_of_decodeOpWord h
  | cmdByte c => exact encode_of_decodeCommand h

/-! ### The illegal words -/

/-- The dispatch refuses a reserved OPC, and LOOP with any OPC but DECODE's (30_encoding.md R108). -/
theorem decodeOpc_reject_iff (opc : BitVec 4) (loop : Bool) (cmd plen : Byte) :
    (∃ e, decodeOpc opc loop cmd plen = .reject e) ↔
      opc.toNat = 0 ∨ 7 ≤ opc.toNat ∨ (loop = true ∧ opc.toNat ≠ 2) := by
  unfold decodeOpc
  split
  -- No arm matched: OPC is none of 1 to 6, since OPC 1 to 6 has an arm for each value of LOOP.
  case h_13 => exact iff_of_true ⟨_, rfl⟩ (by grind)
  all_goals simp [*]

theorem decode_opWord_reject_iff (w : Word) :
    (∃ e, decode (.opWord w) = .reject e) ↔ reservedLow w ≠ 0 ∨ reservedHigh w ≠ 0 ∨
      ∃ e, decodeOpc (opcField w) (loopField w) (cmdField w) (plenField w) = .reject e := by
  rw [decode, decodeOpWord]
  split
  case isTrue h => exact iff_of_true ⟨_, rfl⟩ (h.imp_right .inl)
  case isFalse h => rw [← or_assoc, or_iff_right h]

/-- The words of R108 are those the decoder refuses. -/
theorem illegalWord_iff_reject (w : Word) : Machine.illegalWord w ↔ ∃ e, decode (.opWord w) = .reject e := by
  have hlow : reservedLow w ≠ 0 ↔ w.toNat / 32 % 8 ≠ 0 := by
    rw [ne_eq, BitVec.toNat_eq, reservedLow_toNat]
    rfl
  have hhigh : reservedHigh w ≠ 0 ↔ w.toNat / 16777216 % 256 ≠ 0 := by
    rw [ne_eq, BitVec.toNat_eq, reservedHigh_toNat]
    rfl
  have hloop : loopField w = true ↔ w.toNat / 16 % 2 = 1 := by
    rw [← loopField_toNat, Bool.toNat_eq_one]
  rw [decode_opWord_reject_iff, decodeOpc_reject_iff, hlow, hhigh, hloop, opcField_toNat]
  have := w.isLt
  omega

namespace Machine

/-- An operation word survives the host's 64-bit data (log 31). -/
theorem setWidth_word (w : Word) : (w.setWidth 64 : HostData).setWidth 32 = w := by simp

/-- Settles O5: a refused word is illegal by its fields, and its write fails at acceptance. -/
theorem illegalWordsRefused : Obligations.IllegalWordsRefused := by
  refine fun w => ⟨illegalWord_iff_reject w, fun s hw hq => ⟨?_, rfl, rfl⟩⟩
  obtain ⟨e, he⟩ := (illegalWord_iff_reject w).mp hw
  calc windowWrite .w32 (Reg.offset .op) (w.setWidth 64) s
      = illegalOp w s := by rw [windowWrite_op_illegal s (e := e) (by rwa [setWidth_word]), setWidth_word]
    _ = .next ((s.accept w).fail .illegalOp) := acceptOp_quiet hq w _
    _ = .next (s.ended w .illegalOp 0 0) := by rw [State.accept_fail hq w (by decide)]

/-! ### The word the next step runs -/

theorem decodeTableWord_eq_some {nbits w : Nat} {i : Instr} (h : decodeTableWord nbits w = some i) :
    decode (encodedOfTable nbits w) = .ok i := by
  unfold decodeTableWord at h
  split at h <;> cases h
  assumption

/-- The host operation that issues an encoded instruction is the instruction (30_encoding.md R91, R106). -/
theorem hostOp_issue {e : Encoded} {i : Instr} (s : State) (h : decode e = .ok i) :
    hostOp (Encoded.issue s.param e) s = exec i s := by
  cases e with
  | opWord w =>
    exact (hostAccess_write .w32 _ s (by decide)).trans (windowWrite_op s (by rwa [setWidth_word]))
  | cmdByte c => exact hostOp_command s h

/-- Settles O6: the host moves next, no call runs, and its next operation issues the word. -/
theorem fetchedInstructionRuns : Obligations.FetchedInstructionRuns := by
  intro s nbits w i h
  rw [step_host (s := s.withFetchWord nbits w) rfl, hostTurn_operation rfl rfl]
  exact hostOp_issue { s with client := { s.client with call := none }, tick := s.tick + 1 } (decodeTableWord_eq_some h)

/-! ### Acceptance of the bus operations -/

/-- The encoder stores the frame of the state's payload in TXF, its length in TXN, and no other byte (40_codec.md R121). -/
theorem State.encodeInto_framed (s : State) (cmd : Byte) {plen : Byte} (h : plen.toNat ≤ 253) :
    framed s (s.encodeInto cmd plen) cmd plen := by
  refine ⟨?_, fun i hi => ?_, fun off hoff => ?_⟩
  · rw [State.encodeInto_txn, BitVec.toNat_ofNat]
    omega
  · rw [State.encodeInto_get, if_pos (by unfold txfBase; omega), show 0x200 + i - txfBase = i by unfold txfBase; omega]
    rfl
  · exact (State.encodeInto_get cmd plen off).trans (if_neg hoff)

/-- SEND_CHECK_ACK and EXCHANGE on a quiet block with a payload above MAX_PLEN (30_encoding.md R91). -/
theorem acceptOp_performSend_tooLong {s : State} (hq : s.quiet) (w : Word) (k : OpKind) (cmd : Byte) {plen : Byte}
    (h : s.param.maxPlen.val < plen.toNat) :
    acceptOp w (performSend k cmd plen) s = .next (s.ended w .invalidArg 0 0) := by
  have hlong : (s.accept w).tooLong plen = true := decide_eq_true h
  rw [acceptOp_quiet hq, performSend, if_pos hlong, State.accept_fail hq w (by decide)]

/-- SEND_CHECK_ACK and EXCHANGE on a quiet block with a payload that fits: the frame, then the start (30_encoding.md R91). -/
theorem acceptOp_performSend_starts {s : State} (hq : s.quiet) (w : Word) (k : OpKind) (cmd : Byte) {plen : Byte}
    (h : plen.toNat ≤ s.param.maxPlen.val) :
    acceptOp w (performSend k cmd plen) s = .next
      { s.started w k cmd with mem := (s.encodeInto cmd plen).mem, txn := (s.encodeInto cmd plen).txn } := by
  have hfits : ¬ (s.accept w).tooLong plen = true := fun hlong => absurd (of_decide_eq_true hlong) (Nat.not_lt.mpr h)
  rw [acceptOp_quiet hq, performSend, if_neg hfits, ← State.accept_startBus hq]
  rfl

/-- Settles O18: the two sending operations accept their word with the same operation, `performSend`; READ_RESPONSE only
starts. -/
theorem busOperationsStart : Obligations.BusOperationsStart := by
  intro s cmd plen hq
  refine ⟨fun i k low hi => ?_, ?_⟩
  · have hexec : exec i s = acceptOp (wordOf low cmd plen) (performSend k cmd plen) s := by
      rcases List.mem_pair.mp hi with h | h <;> cases h
      · rw [← opWordOf_eq_wordOf 4#4 false 0x04 cmd plen rfl]
        rfl
      · rw [← opWordOf_eq_wordOf 6#4 false 0x06 cmd plen rfl]
        rfl
    rw [hexec]
    refine ⟨acceptOp_performSend_tooLong hq _ k cmd, fun hp => ⟨_, acceptOp_performSend_starts hq _ k cmd hp, ?_, rfl⟩⟩
    exact s.encodeInto_framed cmd (hp.trans (Nat.le_of_lt_succ s.param.maxPlen.isLt))
  · rw [← opWordOf_eq_wordOf 5#4 false 0x05 cmd plen rfl, ← State.accept_startBus hq]
    exact acceptOp_quiet hq _ (fun s => s.startBus .readResponse cmd)

end Machine

end Sys2Proof
end

section
/-! PROOFS. The codec: the checksums, the frame byte by byte, DecodeFrame's checks by byte index, the round trip, corrupted
and cut frames, and what ENCODE, DECODE and CHECK_ACK leave. -/

namespace Sys2Proof.Machine

/-! ### Frames that decode -/

theorem lenOf_toNat {n : Nat} (h : n ≤ 253) : (lenOf n).toNat = n + 2 := by
  rw [lenOf, BitVec.toNat_ofNat]
  omega

/-- TFI to DCS of an encoded frame, the bytes DecodeFrame sums. -/
theorem sum8_take_encoded (c : Byte) (d : List Byte) :
    sum8 ((tfiToChip :: c :: (d ++ [dcs (tfiToChip :: c :: d), postamble])).take (d.length + 3)) = 0 := by
  have hsplit : tfiToChip :: c :: (d ++ [dcs (tfiToChip :: c :: d), postamble]) =
      (tfiToChip :: c :: d ++ [dcs (tfiToChip :: c :: d)]) ++ [postamble] := by simp
  rw [hsplit, List.take_left' (by simp)]
  exact sum8_dcs _

theorem lenOf_sub_two (n : Nat) : lenOf n - 2 = BitVec.ofNat 8 n := by
  rw [lenOf, BitVec.ofNat_add]
  exact BitVec.add_sub_cancel _ _

/-- An encoded frame passes every check but the one on TFI, which it passes with the loopback expectation only (40_codec.md
R126). -/
theorem decodeFrame_encodeFrame (c : Byte) {d : List Byte} (t : Byte) (h : d.length ≤ 253) :
    decodeFrame (encodeFrame c d) t =
      if tfiToChip ≠ t then .err .framing else .ok c (BitVec.ofNat 8 d.length) := by
  have hlen := lenOf_toNat h
  rw [encodeFrame_eq, decodeFrame_header (l := lcs _) (add_neg8 _) (by omega) (by simp; omega), hlen,
    if_neg (not_not.mpr (sum8_take_encoded c d)), lenOf_sub_two]

theorem encodeFrame_data (c : Byte) (d : List Byte) : ((encodeFrame c d).drop 7).take d.length = d := by
  rw [encodeFrame_eq]
  exact List.take_left

/-- Settles O11: an encoded frame passes every check but the one on TFI. -/
theorem roundTrip : Obligations.RoundTrip := fun c d h =>
  ⟨(decodeFrame_encodeFrame c _ h).trans (if_neg (by decide)), encodeFrame_data c d,
    (decodeFrame_encodeFrame c _ h).trans (if_pos (by decide))⟩

/-! ### The checksums -/

theorem lcs_toNat (len : Byte) : (lcs len).toNat = (256 - len.toNat) % 256 := by
  rw [lcs, neg8, BitVec.toNat_ofNat]

theorem dcs_toNat (s : List Byte) : (dcs s).toNat = (256 - (s.map BitVec.toNat).sum % 256) % 256 := by
  rw [dcs, neg8, BitVec.toNat_ofNat, sum8_toNat]

/-- Settles O8: the model's zero sums of bytes, read as numbers. -/
theorem checksumLaws : Obligations.ChecksumLaws := by
  refine ⟨lcs_toNat, dcs_toNat, rfl, fun len => ?_, fun s => ?_⟩
  · rw [lcs_toNat]
    have := len.isLt
    omega
  · rw [← sum8_toNat, sum8_dcs]
    rfl

/-! ### The frame byte by byte -/

theorem lcs_lenOf_toNat {n : Nat} (h : n ≤ 253) : (lcs (lenOf n)).toNat = 256 - (n + 2) := by
  rw [lcs_toNat, lenOf_toNat h]
  omega

theorem encodeFrame_getElem?_payload (c : Byte) (d : List Byte) {i : Nat} (h : i < d.length) :
    (encodeFrame c d)[7 + i]? = d[i]? := by
  rw [encodeFrame_eq, Nat.add_comm]
  exact List.getElem?_append_left h

theorem encodeFrame_getElem?_trailer (c : Byte) (d : List Byte) (k : Nat) :
    (encodeFrame c d)[7 + k + d.length]? = [dcs (tfiToChip :: c :: d), postamble][k]? := by
  rw [encodeFrame_eq, show 7 + k + d.length = d.length + k + 7 by omega]
  exact (List.getElem?_append_right (Nat.le_add_right _ _)).trans (by rw [Nat.add_sub_cancel_left])

/-- Settles O9: the seven bytes before the payload, the payload, the two bytes after it, and the encoder's stores. -/
theorem frameLayout : Obligations.FrameLayout := by
  refine ⟨fun c d h => ⟨encodeFrame_length c d, rfl, rfl, rfl, ?_, ?_, rfl, rfl,
    fun i => encodeFrame_getElem?_payload c d, ?_, ?_⟩, fun s c n h => s.encodeInto_framed c h⟩
  · exact congrArg some (lenOf_toNat h)
  · exact congrArg some (lcs_lenOf_toNat h)
  · rw [encodeFrame_getElem?_trailer c d 0]
    refine congrArg some ((dcs_toNat _).trans ?_)
    rw [List.map_cons, List.map_cons, List.sum_cons, List.sum_cons, ← Nat.add_assoc]
    rfl
  · exact encodeFrame_getElem?_trailer c d 1

/-! ### DecodeFrame's checks by byte index -/

/-- With TFI and CMD there, the checks on the bytes from TFI on (40_codec.md R123 (c), (d)). -/
theorem decodeBody_eq (t len : Byte) {body : List Byte} (h : 2 ≤ body.length) :
    decodeBody t len body =
      if body.getD 0 0 ≠ t then .err .framing
      else if sum8 (body.take (len.toNat + 1)) ≠ 0 then .err .checksum
      else .ok (body.getD 1 0) (len - 2) := by
  match body, h with
  | _ :: _ :: _, _ => rfl

theorem add_eq_zero_iff_toNat (a b : Byte) : a + b = 0 ↔ (a.toNat + b.toNat) % 256 = 0 := by
  rw [BitVec.toNat_eq, BitVec.toNat_add]
  rfl

theorem sum8_eq_zero_iff (s : List Byte) : sum8 s = 0 ↔ (s.map BitVec.toNat).sum % 256 = 0 := by
  rw [BitVec.toNat_eq, sum8_toNat]
  rfl

theorem sub_two_eq_ofNat {len : Byte} (h : 2 ≤ len.toNat) : len - 2 = BitVec.ofNat 8 (len.toNat - 2) := by
  apply BitVec.eq_of_toNat_eq
  rw [BitVec.toNat_ofNat, BitVec.toNat_sub_of_le (by rwa [BitVec.le_def])]
  have := len.isLt
  exact (Nat.mod_eq_of_lt (by omega)).symm

/-- The checks of R123 on bytes and byte by byte index, one after the other. -/
theorem decodeFrame_eq_decodeInOrder (r : List Byte) (t : Byte) : decodeFrame r t = decodeInOrder r t := by
  match r with
  | [] | [_] | [_, _] | [_, _, _] | [_, _, _, _] => rfl
  | b0 :: b1 :: b2 :: len :: l :: body =>
    rw [decodeInOrder, if_neg (by simp), decodeFrame]
    refine ite_congr rfl (fun _ => rfl) fun _ => ?_
    refine ite_congr (propext (add_eq_zero_iff_toNat len l).not) (fun _ => rfl) fun _ => ?_
    refine ite_congr rfl (fun _ => rfl) fun hlen => ?_
    refine ite_congr (propext (Nat.add_lt_add_iff_right (k := 5)).symm) (fun _ => rfl) fun hbody => ?_
    have h2 : 2 ≤ len.toNat := Nat.not_lt.mp hlen
    have hlength : len.toNat + 1 ≤ body.length := Nat.le_of_add_le_add_right (b := 5) (Nat.not_lt.mp hbody)
    rw [decodeBody_eq t len (by omega), sub_two_eq_ofNat h2]
    refine ite_congr rfl (fun _ => rfl) fun _ => ?_
    exact ite_congr (propext (sum8_eq_zero_iff _).not) (fun _ => rfl) fun _ => rfl

/-! ### Bytes that are not examined -/

/-- With a good header and enough bytes, the checks from TFI on decide. -/
theorem decodeFrame_eq_decodeBody {len l : Byte} {body : List Byte} (t : Byte) (hsum : len + l = 0) (hlen : 2 ≤ len.toNat)
    (hbody : len.toNat + 1 ≤ body.length) :
    decodeFrame (preamble :: start1 :: start2 :: len :: l :: body) t = decodeBody t len body := by
  rw [decodeFrame, if_neg (by simp), if_neg (not_not.mpr hsum), if_neg (show ¬ len < 2 from Nat.not_lt.mpr hlen),
    if_neg (Nat.not_lt.mpr hbody)]

/-- TFI, CMD and the sum are all among the first LEN + 1 bytes from TFI on. -/
theorem decodeBody_take (t : Byte) {len : Byte} (body : List Byte) (hlen : 2 ≤ len.toNat) :
    decodeBody t len (body.take (len.toNat + 1)) = decodeBody t len body := by
  match body with
  | [] => rfl
  | [_] => rw [List.take_of_length_le (by simp)]
  | tfi :: cmd :: rest =>
    obtain ⟨k, hk⟩ := Nat.exists_eq_add_of_le' (Nat.one_le_of_lt hlen)
    simp only [hk, List.take_succ_cons, decodeBody, List.take_take, Nat.min_self]

theorem decodeFrame_take_append (r : List Byte) (t : Byte) (tail : List Byte) (h : (r.getD 3 0).toNat + 6 ≤ r.length) :
    decodeFrame (r.take ((r.getD 3 0).toNat + 6) ++ tail) t = decodeFrame r t := by
  match r, h with
  | [], h | [_], h | [_, _], h | [_, _, _], h | [_, _, _, _], h => simp at h
  | b0 :: b1 :: b2 :: len :: l :: body, h =>
    have hbody : len.toNat + 1 ≤ body.length := Nat.le_of_add_le_add_right (b := 5) h
    show decodeFrame (b0 :: b1 :: b2 :: len :: l :: (body.take (len.toNat + 1) ++ tail)) t = _
    rw [decodeFrame, decodeFrame]
    refine ite_congr rfl (fun _ => rfl) fun _ => ?_
    refine ite_congr rfl (fun _ => rfl) fun _ => ?_
    refine ite_congr rfl (fun _ => rfl) fun hlen => ?_
    have h2 : 2 ≤ len.toNat := Nat.not_lt.mp hlen
    rw [if_neg (by simp; omega), if_neg (by omega), ← decodeBody_take t _ h2,
      List.take_left' (List.length_take_of_le hbody), decodeBody_take t _ h2]

/-- Settles O10: the model's checks on bytes are the spec's by index, and none looks past DCS. -/
theorem decodeChecksInOrder : Obligations.DecodeChecksInOrder :=
  fun r t => ⟨decodeFrame_eq_decodeInOrder r t, fun tail => decodeFrame_take_append r t tail⟩

/-- LEN of a frame that decodes: it announces the payload, and the frame reaches to DCS. -/
theorem decodeFrame_ok_len {f : List Byte} {t c n : Byte} (h : decodeFrame f t = .ok c n) :
    (f.getD 3 0).toNat = n.toNat + 2 ∧ n.toNat + 8 ≤ f.length := by
  obtain ⟨len, l, rest, rfl, -, hlen, hrest, -, rfl⟩ := decodeFrame_ok h
  have h2 : 2 ≤ len.toNat := Nat.not_lt.mp hlen
  have hn : (len - 2).toNat = len.toNat - 2 := BitVec.toNat_sub_of_le (BitVec.not_lt.mp hlen)
  refine ⟨?_, ?_⟩
  · show len.toNat = _
    omega
  · simp only [List.length_cons]
    omega

/-- Settles O13: nothing past DCS is examined. -/
theorem postambleNotExamined : Obligations.PostambleNotExamined := by
  intro f t c n h tail
  obtain ⟨hlen, hlength⟩ := decodeFrame_ok_len h
  have htail := decodeFrame_take_append f t tail (by omega)
  rw [hlen] at htail
  exact htail.trans h

/-! ### Corrupted frames -/

theorem sum8_set_ne {s : List Byte} {i : Nat} {b : Byte} (hi : i < s.length) (hb : s[i]? ≠ some b) :
    sum8 (s.set i b) ≠ sum8 s := by
  induction s generalizing i with
  | nil => simp at hi
  | cons a s ih =>
    cases i with
    | zero => exact fun h => hb (congrArg some (add_right_cancel h).symm)
    | succ i => exact fun h => ih (Nat.lt_of_succ_lt_succ hi) hb (add_left_cancel h)

/-- A wrong preamble, start code or LCS (40_codec.md R123 (a), (b)). -/
theorem decodeFrame_bad_header {b0 b1 b2 len l : Byte} (body : List Byte) (t : Byte)
    (h : b0 ≠ preamble ∨ b1 ≠ start1 ∨ b2 ≠ start2 ∨ len + l ≠ 0) :
    decodeFrame (b0 :: b1 :: b2 :: len :: l :: body) t = .err .framing := by
  rw [decodeFrame]
  split
  · rfl
  · rw [if_pos (by tauto)]

theorem decodeFrame_set_header {f : List Byte} {t c n : Byte} (h : decodeFrame f t = .ok c n) {i : Nat} {b : Byte}
    (hi : i ≤ 5) (hb : f[i]? ≠ some b) : decodeFrame (f.set i b) t = .err .framing := by
  obtain ⟨len, l, rest, rfl, hsum, hlen, hrest, -, -⟩ := decodeFrame_ok h
  have hne : ∀ a, (preamble :: start1 :: start2 :: len :: l :: t :: c :: rest)[i]? = some a → b ≠ a :=
    fun a ha hba => hb (hba ▸ ha)
  match i, hi with
  | 0, _ => exact decodeFrame_bad_header _ t (.inl (hne _ rfl))
  | 1, _ => exact decodeFrame_bad_header _ t (.inr (.inl (hne _ rfl)))
  | 2, _ => exact decodeFrame_bad_header _ t (.inr (.inr (.inl (hne _ rfl))))
  | 3, _ =>
    exact decodeFrame_bad_header _ t (.inr (.inr (.inr fun hz => hne _ rfl (add_right_cancel (hz.trans hsum.symm)))))
  | 4, _ =>
    exact decodeFrame_bad_header _ t (.inr (.inr (.inr fun hz => hne _ rfl (add_left_cancel (hz.trans hsum.symm)))))
  | 5, _ => exact (decodeFrame_header hsum (Nat.not_lt.mp hlen) hrest).trans (if_pos (hne _ rfl))

/-- CMD, DATA and DCS are summed. -/
theorem decodeFrame_set_summed {f : List Byte} {t c n : Byte} (h : decodeFrame f t = .ok c n) {i : Nat} {b : Byte}
    (h6 : 6 ≤ i) (hi : i ≤ n.toNat + 7) (hb : f[i]? ≠ some b) : decodeFrame (f.set i b) t = .err .checksum := by
  obtain ⟨hn, -⟩ := decodeFrame_ok_len h
  obtain ⟨len, l, rest, rfl, hsum, hlen, hrest, hzero, -⟩ := decodeFrame_ok h
  obtain ⟨j, rfl⟩ := Nat.exists_eq_add_of_le' h6
  replace hn : len.toNat = n.toNat + 2 := hn
  have hne : sum8 (((t :: c :: rest).set (j + 1) b).take (len.toNat + 1)) ≠ 0 := by
    rw [List.take_set, ← hzero]
    refine sum8_set_ne (by simp; omega) ?_
    rw [List.getElem?_take_of_lt (by omega)]
    exact hb
  show decodeFrame (preamble :: start1 :: start2 :: len :: l :: (t :: c :: rest).set (j + 1) b) t = _
  rw [decodeFrame_eq_decodeBody t hsum (Nat.not_lt.mp hlen) (by simp; omega), decodeBody_eq t len (by simp)]
  exact (if_neg (not_not.mpr rfl)).trans (if_pos hne)

/-- Settles O12: the header's bytes, then the summed ones, then the postamble. -/
theorem singleByteCorruption : Obligations.SingleByteCorruption := by
  intro f t c n h hf i b hi hb
  split
  case isTrue h5 => exact decodeFrame_set_header h h5 hb
  case isFalse h5 =>
    split
    case isTrue h7 => exact decodeFrame_set_summed h (by omega) h7 hb
    case isFalse h7 =>
      obtain rfl : i = n.toNat + 8 := by omega
      rw [List.set_eq_take_append_cons_drop, if_pos hi]
      exact postambleNotExamined f t c n h _

/-! ### The acknowledgement -/

/-- Settles O14: a list is its length and its elements. -/
theorem ackExact : Obligations.AckExact := by
  intro b
  rw [ackMatch, decide_eq_true_iff]
  constructor
  · rintro rfl
    exact ⟨rfl, rfl, rfl, rfl, rfl, rfl, rfl⟩
  · rintro ⟨hlength, h0, h1, h2, h3, h4, h5⟩
    refine List.ext_getElem? fun i => ?_
    match i with
    | 0 => exact h0
    | 1 => exact h1
    | 2 => exact h2
    | 3 => exact h3
    | 4 => exact h4
    | 5 => exact h5
    | i + 6 => rw [List.getElem?_eq_none (by omega)]; rfl

/-! ### The codec's operations on a quiet block -/

/-- An operation that decodes nothing ends in success. -/
theorem State.accept_matched {s : State} (hq : s.quiet) (w : Word) : (s.accept w).succeed = s.ended w .noError 0 0 :=
  State.accept_succeed hq w 0 0

/-- ENCODE on a quiet block with a payload above MAX_PLEN (40_codec.md R122). -/
theorem acceptOp_performEncode_tooLong {s : State} (hq : s.quiet) (w : Word) (cmd : Byte) {plen : Byte}
    (h : s.param.maxPlen.val < plen.toNat) :
    acceptOp w (performEncode cmd plen) s = .next (s.ended w .invalidArg 0 0) := by
  have hlong : (s.accept w).tooLong plen = true := decide_eq_true h
  rw [acceptOp_quiet hq, performEncode, if_pos hlong, State.accept_fail hq w (by decide)]

/-- ENCODE on a quiet block with a payload that fits (40_codec.md R122). -/
theorem acceptOp_performEncode_encodes {s : State} (hq : s.quiet) (w : Word) (cmd : Byte) {plen : Byte}
    (h : plen.toNat ≤ s.param.maxPlen.val) :
    acceptOp w (performEncode cmd plen) s = .next
      { s.ended w .noError 0 0 with mem := (s.encodeInto cmd plen).mem, txn := (s.encodeInto cmd plen).txn } := by
  have hfits : ¬ (s.accept w).tooLong plen = true := fun hlong => absurd (of_decide_eq_true hlong) (Nat.not_lt.mpr h)
  rw [acceptOp_quiet hq, performEncode, if_neg hfits]
  exact congrArg Host.Outcome.next (State.accept_matched (s := s.encodeInto cmd plen) hq w)

/-- Settles O15: ENCODE refuses a payload above MAX_PLEN, else encodes and ends. -/
theorem encodeResult : Obligations.EncodeResult := by
  intro s cmd plen hq
  have hexec : exec (.fceEncode cmd plen) s = acceptOp (wordOf 0x01 cmd plen) (performEncode cmd plen) s := by
    rw [← opWordOf_eq_wordOf 1#4 false 0x01 cmd plen rfl]
    rfl
  rw [hexec]
  refine ⟨acceptOp_performEncode_tooLong hq _ cmd, fun hp => ⟨_, acceptOp_performEncode_encodes hq _ cmd hp, ?_, rfl⟩⟩
  exact s.encodeInto_framed cmd (hp.trans (Nat.le_of_lt_succ s.param.maxPlen.isLt))

theorem State.accept_received (s : State) (w : Word) : (s.accept w).received = s.readBytes 0x400 s.rxn.toNat := rfl

theorem State.accept_rxnTooLarge (s : State) (w : Word) : (s.accept w).rxnTooLarge = decide (262 < s.rxn.toNat) := rfl

/-- DECODE on a quiet block, whichever TFI it expects (40_codec.md R125). -/
theorem acceptOp_performDecode {s : State} (hq : s.quiet) (w : Word) (t : Byte) :
    acceptOp w (performDecode t) s = .next (s.decoded w t) := by
  rw [acceptOp_quiet hq, performDecode, State.decoded, State.accept_rxnTooLarge, State.accept_received]
  by_cases hrxn : 262 < s.rxn.toNat
  · rw [if_pos (decide_eq_true hrxn), if_pos hrxn, State.accept_fail hq w (by decide)]
  · rw [if_neg (by simpa using hrxn), if_neg hrxn]
    cases h : decodeFrame (s.readBytes 0x400 s.rxn.toNat) t with
    | ok cmd plen => exact congrArg _ (State.accept_succeed hq w cmd plen)
    | err e => exact congrArg _ (State.accept_fail hq w (by rcases decodeFrame_err h with rfl | rfl <;> decide))

/-- Settles O16: both forms of DECODE perform the same operation, each with its TFI. -/
theorem decodeResult : Obligations.DecodeResult := by
  intro s cmd plen hq
  rw [← opWordOf_eq_wordOf 2#4 false 0x02 cmd plen rfl, ← opWordOf_eq_wordOf 2#4 true 0x12 cmd plen rfl]
  exact ⟨acceptOp_performDecode hq _ _, acceptOp_performDecode hq _ _⟩

/-- Settles O17: the size check, then the six bytes. -/
theorem checkAckResult : Obligations.CheckAckResult := by
  intro s cmd plen hq
  rw [← opWordOf_eq_wordOf 3#4 false 0x03 cmd plen rfl]
  refine (acceptOp_quiet hq _ performCheckAck).trans (congrArg Host.Outcome.next ?_)
  rw [performCheckAck, State.ackOutcome, State.accept_rxnTooLarge, State.accept_received]
  by_cases hrxn : 262 < s.rxn.toNat
  · rw [if_pos (decide_eq_true hrxn), if_pos hrxn, State.accept_fail hq _ (by decide)]
  · rw [if_neg (by simpa using hrxn), if_neg hrxn]
    by_cases hack : s.readBytes 0x400 s.rxn.toNat = ackFrame
    · rw [ackMatch, if_pos (decide_eq_true hack), State.accept_matched hq]
      exact congrArg (s.ended _ · 0 0) (if_pos hack).symm
    · rw [ackMatch, if_neg (by simpa using hack), State.accept_fail hq _ (by decide)]
      exact congrArg (s.ended _ · 0 0) (if_neg hack).symm

/-! ### Frames of the operations -/

/-- An operation word is rejected while BUSY, else taken by a quiet block (10_state.md R28). -/
theorem exec_operation_rejected_or_quiet {i : Instr} {s t : State} (hi : isOperation i = true)
    (hcs : s.status.cs = true → s.status.busy = true) (h : exec i s = .next t) :
    (s.status.busy = true ∧ t = s.rejected) ∨ s.quiet := by
  refine (exec_operation_performed hi h).imp_right fun ⟨hb, _⟩ => ⟨hb, ?_⟩
  exact Bool.eq_false_iff.mpr fun hc => absurd (hcs hc) (by simp [hb])

/-- What no operation's word writes in the step that takes it, rejected, refused, ended or started (30_encoding.md R91). -/
structure WordFrame (s t : State) : Prop where
  tmo : t.tmo = s.tmo
  rxn : t.rxn = s.rxn
  statb : t.statb = s.statb
  param : t.param = s.param
  trace : t.trace = s.trace
  cs : t.status.cs = s.status.cs
  client : t.client = s.client
  transport : t.transport = s.transport
  chip : t.chip = s.chip
  turns : t.turns = s.turns
  tick : t.tick = s.tick

/-- What a word that starts no bus operation leaves besides. -/
abbrev sameEngine (s t : State) : Prop :=
  t.limit = s.limit ∧ t.cmdl = s.cmdl ∧ t.ph = s.ph ∧ t.idx = s.idx ∧ t.status.busy = s.status.busy

theorem rejected_wordFrame (s : State) : WordFrame s s.rejected :=
  ⟨rfl, rfl, rfl, rfl, rfl, rfl, rfl, rfl, rfl, rfl, rfl⟩

theorem rejected_sameEngine (s : State) : sameEngine s s.rejected := ⟨rfl, rfl, rfl, rfl, rfl⟩

section

variable {s : State} (hq : s.quiet) (w : Word) (m : Memory) (txn : BitVec 9)

include hq

theorem ended_wordFrame (e : Err) (rc rl : Byte) :
    WordFrame s { s.ended w e rc rl with mem := m, txn := txn } :=
  ⟨rfl, rfl, rfl, rfl, rfl, hq.2.symm, rfl, rfl, rfl, rfl, rfl⟩

theorem ended_sameEngine (e : Err) (rc rl : Byte) :
    sameEngine s { s.ended w e rc rl with mem := m, txn := txn } :=
  ⟨rfl, rfl, rfl, rfl, hq.1.symm⟩

theorem started_wordFrame (k : OpKind) (cmd : Byte) :
    WordFrame s { s.started w k cmd with mem := m, txn := txn } :=
  ⟨rfl, rfl, rfl, rfl, rfl, hq.2.symm, rfl, rfl, rfl, rfl, rfl⟩

end

/-! ### Operations that store nothing -/

/-- DECODE ends, whatever its outcome. -/
theorem State.decoded_eq_ended (s : State) (w : Word) (tfi : Byte) : ∃ e rc rl, s.decoded w tfi = s.ended w e rc rl := by
  unfold State.decoded
  split
  · exact ⟨_, _, _, rfl⟩
  · split <;> exact ⟨_, _, _, rfl⟩

/-- On a quiet block DECODE and CHECK_ACK end, and READ_RESPONSE starts; nothing more. -/
theorem exec_storingNothing_quiet {i : Instr} {cmd plen : Byte} {s t : State} (hq : s.quiet)
    (hi : i ∈ [Instr.fceDecode cmd plen, Instr.fceDecodeLoop cmd plen, Instr.fceCheckAck cmd plen,
      Instr.fceReadResp cmd plen])
    (h : exec i s = .next t) :
    (∃ w e rc rl, t = s.ended w e rc rl) ∨ (i = .fceReadResp cmd plen ∧ ∃ w k, t = s.started w k cmd) := by
  obtain ⟨hdecode, hloop⟩ := decodeResult s cmd plen hq
  simp only [List.mem_cons, List.not_mem_nil, or_false] at hi
  rcases hi with rfl | rfl | rfl | rfl
  · cases hdecode.symm.trans h
    exact .inl ⟨_, s.decoded_eq_ended _ _⟩
  · cases hloop.symm.trans h
    exact .inl ⟨_, s.decoded_eq_ended _ _⟩
  · cases (checkAckResult s cmd plen hq).symm.trans h
    exact .inl ⟨_, _, _, _, rfl⟩
  · cases (busOperationsStart s cmd plen hq).2.symm.trans h
    exact .inr ⟨rfl, _, _, rfl⟩

/-- Settles O20: a rejected word sets REJ, an operation that ends or starts writes what `State.ended` or `State.started`
says. -/
theorem frameStoringNothing : Obligations.FrameStoringNothing := by
  intro i cmd plen s t hi hcs h
  have hop : isOperation i = true := by
    simp only [List.mem_cons, List.not_mem_nil, or_false] at hi
    rcases hi with rfl | rfl | rfl | rfl <;> rfl
  have hkept : WordFrame s t ∧ t.mem = s.mem ∧ t.txn = s.txn ∧ (i ≠ .fceReadResp cmd plen → sameEngine s t) := by
    rcases exec_operation_rejected_or_quiet hop hcs h with ⟨-, rfl⟩ | hq
    · exact ⟨rejected_wordFrame s, rfl, rfl, fun _ => rejected_sameEngine s⟩
    · rcases exec_storingNothing_quiet hq hi h with ⟨w, e, rc, rl, rfl⟩ | ⟨hread, w, k, rfl⟩
      · exact ⟨ended_wordFrame hq w s.mem s.txn e rc rl, rfl, rfl, fun _ => ended_sameEngine hq w s.mem s.txn e rc rl⟩
      · exact ⟨started_wordFrame hq w s.mem s.txn k cmd, rfl, rfl, fun hne => absurd hread hne⟩
  obtain ⟨hf, hmem, htxn, hengine⟩ := hkept
  exact ⟨fun off => State.readByte_congr (congrArg _ hmem) hf.tick, hmem, hf.tmo, hf.rxn, htxn, hf.statb, hf.param,
    hf.trace, hf.cs, hf.client, hf.transport, hf.chip, hf.turns, hf.tick, hengine⟩

/-! ### Operations that store a frame -/

/-- On a quiet block ENCODE, SEND_CHECK_ACK and EXCHANGE refuse a payload above MAX_PLEN, else store the frame, and ENCODE
ends. -/
theorem exec_storingTxf_quiet {i : Instr} {cmd plen : Byte} {s t : State} (hq : s.quiet)
    (hi : i ∈ [Instr.fceEncode cmd plen, Instr.fceSendAck cmd plen, Instr.fceExchange cmd plen])
    (h : exec i s = .next t) :
    (∃ w, t = s.ended w .invalidArg 0 0) ∨
      (plen.toNat ≤ s.param.maxPlen.val ∧ framed s t cmd plen ∧
        ((∃ w, t = { s.ended w .noError 0 0 with mem := t.mem, txn := t.txn }) ∨
          (i ≠ .fceEncode cmd plen ∧ ∃ w k, t = { s.started w k cmd with mem := t.mem, txn := t.txn }))) := by
  simp only [List.mem_cons, List.not_mem_nil, or_false] at hi
  rcases hi with rfl | hi
  · obtain ⟨hrefused, hencoded⟩ := encodeResult s cmd plen hq
    rcases Nat.lt_or_ge s.param.maxPlen.val plen.toNat with hlong | hfits
    · cases (hrefused hlong).symm.trans h
      exact .inl ⟨_, rfl⟩
    · obtain ⟨u, hu, hframed, heq⟩ := hencoded hfits
      cases hu.symm.trans h
      exact .inr ⟨hfits, hframed, .inl ⟨_, heq⟩⟩
  · obtain ⟨k, low, hmem, hne⟩ : ∃ k low, (i, k, low) ∈ [(Instr.fceSendAck cmd plen, OpKind.sendCheckAck, 0x04),
        (Instr.fceExchange cmd plen, OpKind.exchange, 0x06)] ∧ i ≠ .fceEncode cmd plen := by
      rcases hi with rfl | rfl
      · exact ⟨_, _, List.mem_cons_self, nofun⟩
      · exact ⟨_, _, List.mem_cons_of_mem _ List.mem_cons_self, nofun⟩
    obtain ⟨hrefused, hstarted⟩ := (busOperationsStart s cmd plen hq).1 i k low hmem
    rcases Nat.lt_or_ge s.param.maxPlen.val plen.toNat with hlong | hfits
    · cases (hrefused hlong).symm.trans h
      exact .inl ⟨_, rfl⟩
    · obtain ⟨u, hu, hframed, heq⟩ := hstarted hfits
      cases hu.symm.trans h
      exact .inr ⟨hfits, hframed, .inr ⟨hne, _, _, heq⟩⟩

/-- Settles O21: no byte is stored but by the encoder, in a word that is taken and not refused; the other fields as in
O20's. -/
theorem frameStoringTxf : Obligations.FrameStoringTxf := by
  intro i cmd plen s t hi hcs h
  have hop : isOperation i = true := by
    simp only [List.mem_cons, List.not_mem_nil, or_false] at hi
    rcases hi with rfl | rfl | rfl <;> rfl
  have hkept : WordFrame s t ∧
      (t.mem = s.mem ∨ s.status.busy = false ∧ plen.toNat ≤ s.param.maxPlen.val ∧ framed s t cmd plen) ∧
      (i = .fceEncode cmd plen → sameEngine s t) := by
    rcases exec_operation_rejected_or_quiet hop hcs h with ⟨-, rfl⟩ | hq
    · exact ⟨rejected_wordFrame s, .inl rfl, fun _ => rejected_sameEngine s⟩
    · rcases exec_storingTxf_quiet hq hi h with ⟨w, rfl⟩ | ⟨hfits, hframed, ⟨w, ht⟩ | ⟨hne, w, k, ht⟩⟩
      · exact ⟨ended_wordFrame hq w s.mem s.txn _ 0 0, .inl rfl, fun _ => ended_sameEngine hq w s.mem s.txn _ 0 0⟩
      · exact ⟨ht ▸ ended_wordFrame hq w t.mem t.txn _ 0 0, .inr ⟨hq.1, hfits, hframed⟩,
          fun _ => ht ▸ ended_sameEngine hq w t.mem t.txn _ 0 0⟩
      · exact ⟨ht ▸ started_wordFrame hq w t.mem t.txn k cmd, .inr ⟨hq.1, hfits, hframed⟩, fun he => absurd he hne⟩
  obtain ⟨hf, hmem, hengine⟩ := hkept
  refine ⟨fun off hoff => State.readByte_congr ?_ hf.tick, hf.tmo, hf.rxn, hf.statb, hf.param,
    hf.trace, hf.cs, hf.client, hf.transport, hf.chip, hf.turns, hf.tick, hengine⟩
  rcases hmem with hmem | ⟨hb, hfits, -, -, hother⟩
  · rw [hmem]
  · exact hother off fun hin => hoff ⟨hb, hfits, hin⟩

end Sys2Proof.Machine
end

section
/-! PROOFS. The steps of the engine, state by state. -/

namespace Sys2Proof.Machine

/-! ### Tests of the engine as the spec writes them -/

/-- Ready is bit 0 of the status byte, bits 7:1 ignored (41_handshake.md R155). -/
theorem isReady_iff (b : Byte) : isReady b = true ↔ b.toNat % 2 = 1 := by
  simp [isReady, BitVec.getLsbD]

/-- The bytes of a header, listed. -/
theorem State.readBytes_five (s : State) (off : Nat) :
    s.readBytes off 5 =
      [s.readByte off, s.readByte (off + 1), s.readByte (off + 2), s.readByte (off + 3), s.readByte (off + 4)] := rfl

/-- The header checks on bytes, as R161 writes them. -/
theorem headerGood_iff (b0 b1 b2 len l : Byte) :
    headerGood [b0, b1, b2, len, l] = true ↔
      (b0 = 0x00#8 ∧ b1 = 0x00#8 ∧ b2 = 0xFF#8) ∧ (len.toNat + l.toNat) % 256 = 0 ∧ 2 ≤ len.toNat := by
  simp only [headerGood, Bool.and_eq_true, decide_eq_true_eq, Bool.not_eq_true', decide_eq_false_iff_not,
    add_eq_zero_iff_toNat, and_assoc]
  exact and_congr_right' (and_congr_right' (and_congr_right' (and_congr_right' BitVec.not_lt)))

/-! ### The steps -/

/-- START of an operation that sends (41_handshake.md R153). -/
theorem engineStart_sends {s : State} (hk : s.opk = .sendCheckAck ∨ s.opk = .exchange) :
    engineStart s = .next (s.bracketed.setFsm .sending) := by
  rcases hk with hk | hk <;> rw [engineStart, hk] <;> rfl

/-- START of an operation that does not send goes on as after an acknowledgement (R153, R160). -/
theorem engineStart_reads {s : State} (hk : ¬ (s.opk = .sendCheckAck ∨ s.opk = .exchange)) :
    engineStart s = .next s.bracketed.afterAck := by
  obtain ⟨hsend, hexchange⟩ := not_or.mp hk
  rw [engineStart]
  split
  · exact absurd ‹_› hsend
  · exact absurd ‹_› hexchange
  all_goals rfl

/-- SENDING inside TXF (41_handshake.md R154). -/
theorem engineStep_sending_eq {s : State} (hb : s.status.busy = true) (hf : s.status.fsm = .sending)
    (hi : s.idx.toNat < txfSize) :
    engineStep s = .next (if s.idx + 1 = s.txn then s.sentByte.beginPoll false else s.sentByte) := by
  rw [engineStep_sending hb hf, engineSending, if_pos hi]
  rfl

/-- AWAIT_READY (R157). -/
theorem engineStep_awaitReady_eq {s : State} (hb : s.status.busy = true) (hf : s.status.fsm = .awaitReady) :
    engineStep s = .next
      (if (s.chipAnswer .status).toNat % 2 = 1 then
        (if s.ph then s.polled.beginRead else { s.polled.setFsm .verifyAck with idx := 0 })
       else if s.att + 1 = s.limit then s.polled.fail .timeout
       else s.polled.setFsm .pollWait) := by
  rw [engineStep_awaitReady hb hf, engineAwaitReady]
  exact congrArg _ (if_congr (isReady_iff _) rfl rfl)

/-- VERIFY_ACK inside ACKR (R159). -/
theorem engineStep_verifyAck_eq {s : State} (hb : s.status.busy = true) (hf : s.status.fsm = .verifyAck)
    (hi : s.idx.toNat < ackrSize) :
    engineStep s = .next
      (if s.idx + 1 = 6 then
        if ackMatch s.ackReceived.ackBytes = false then s.ackReceived.fail .ackMismatch
        else if s.opk = .sendCheckAck then s.ackReceived.succeed
        else s.ackReceived.afterAck
       else s.ackReceived) := by
  rw [engineStep_verifyAck hb hf, engineVerifyAck, if_pos hi]
  exact congrArg _ (if_congr Iff.rfl (if_congr Bool.eq_false_iff.symm rfl rfl) rfl)

/-- READ_HDR inside RXF (R161). -/
theorem engineStep_readHdr_eq {s : State} (hb : s.status.busy = true) (hf : s.status.fsm = .readHdr)
    (hi : s.idx.toNat < rxfSize) :
    engineStep s = .next
      (if s.idx + 1 = 5 then
        if headerGood (s.receiveByte.readBytes rxfBase 5) then s.receiveByte.setFsm .readBody
        else s.receiveByte.fail .framing
       else s.receiveByte) := by
  rw [engineStep_readHdr hb hf, engineReadHdr, if_pos hi]

/-- READ_BODY inside RXF (R162). -/
theorem engineStep_readBody_eq {s : State} (hb : s.status.busy = true) (hf : s.status.fsm = .readBody)
    (hi : s.idx.toNat < rxfSize) :
    engineStep s = .next
      (if s.idx.toNat + 1 = (s.receiveByte.readByte (rxfBase + 3)).toNat + 7 then s.receiveByte.completeResponse
        else s.receiveByte) := by
  rw [engineStep_readBody hb hf, engineReadBody, if_pos hi]

/-! ### The steps as the spec writes them -/

/-- Settles O31: the operations that send, and those that do not. -/
theorem startStep : Obligations.StartStep := by
  intro s hb hf
  rw [engineStep_start hb hf]
  split
  · exact engineStart_sends ‹_›
  · exact engineStart_reads ‹_›

/-- Settles O32: the step inside TXF, and the length of the frame from the invariant's stage. -/
theorem sendingStep : Obligations.SendingStep := by
  refine ⟨fun s hb hf hi => engineStep_sending_eq hb hf hi, fun s hi hf => ?_⟩
  have hst := hi.stage
  simp only [State.stage, hf] at hst
  obtain ⟨-, ⟨h9, -⟩, -⟩ := hst
  exact h9

/-- Settles O33: ready by phase, the last attempt, another attempt. -/
theorem awaitReadyStep : Obligations.AwaitReadyStep := by
  rintro s s1 b hb hf rfl rfl
  exact engineStep_awaitReady_eq hb hf

/-- Settles O34. -/
theorem pollWaitStep : Obligations.PollWaitStep := fun _ hb hf => engineStep_pollWait hb hf

/-- Settles O35: the byte stored, and after the sixth the acknowledgement's check and `afterAck`. -/
theorem verifyAckStep : Obligations.VerifyAckStep := by
  rintro s s1 b hb hf hi rfl rfl
  exact engineStep_verifyAck_eq hb hf hi

/-- The checks of R161 one after the other, on a header that was read. -/
theorem headerChecks_eq {α : Type} (s : State) (good bad : α) :
    (if s.readByte 0x400 ≠ 0x00#8 ∨ s.readByte 0x401 ≠ 0x00#8 ∨ s.readByte 0x402 ≠ 0xFF#8 then bad
      else if ((s.readByte 0x403).toNat + (s.readByte 0x404).toNat) % 256 ≠ 0 then bad
      else if (s.readByte 0x403).toNat < 2 then bad
      else good) = if headerGood (s.readBytes rxfBase 5) then good else bad := by
  rw [State.readBytes_five]
  simp only [rxfBase, headerGood_iff]
  grind

/-- Settles O36: the byte stored, after the fifth the header's checks; an operation that has failed is quiescent. -/
theorem headerStep : Obligations.HeaderStep := by
  rintro s s1 b hb hf hi rfl rfl
  refine ⟨(engineStep_readHdr_eq hb hf hi).trans ?_, engineStep_quiet (by simp [State.fail_eq])⟩
  exact congrArg _ (if_congr Iff.rfl (headerChecks_eq _ _ _).symm rfl)

/-- The command echo as a number: CMD is CMDL + 1 modulo 256 (41_handshake.md R163). -/
theorem echo_iff (c cmdl : Byte) : c = cmdl + 1 ↔ c.toNat = (cmdl.toNat + 1) % 256 := by
  rw [BitVec.toNat_eq, BitVec.toNat_add]
  rfl

/-- The end of a response whose bytes do not decode (R163). -/
theorem State.completeResponse_err {s : State} {e : Err} (h : decodeFrame s.received tfiToHost = .err e) :
    s.completeResponse = s.fail e := by
  rw [State.completeResponse, h]

/-- The end of a response whose bytes decode: the command echo (R163). -/
theorem State.completeResponse_ok {s : State} {c n : Byte} (h : decodeFrame s.received tfiToHost = .ok c n) :
    s.completeResponse = if c = s.cmdl + 1 then (s.setResponse c n).succeed else s.fail .framing := by
  rw [State.completeResponse, h]
  exact ite_not _ _ _

/-- Settles O37: another byte to come, or the end of the response by its decode and its command echo. -/
theorem bodyStep : Obligations.BodyStep := by
  rintro s s1 b hb hf hi rfl rfl
  have hstep := engineStep_readBody_eq hb hf hi
  rw [← toNat_succ hi (by decide)] at hstep
  refine ⟨fun hmore => hstep.trans (congrArg _ (if_neg hmore)), fun hlast => ?_⟩
  replace hstep := hstep.trans (congrArg _ (if_pos hlast))
  refine ⟨fun e he => hstep.trans (congrArg _ (State.completeResponse_err he)), fun c n hc => ?_⟩
  replace hstep := hstep.trans (congrArg _ (State.completeResponse_ok hc))
  exact ⟨fun hne => hstep.trans (congrArg _ (if_neg ((echo_iff _ _).not.mpr hne))),
    fun heq => hstep.trans (congrArg _ (if_pos ((echo_iff _ _).mpr heq)))⟩

end Sys2Proof.Machine
end

section
/-! PROOFS. What an engine step appends to the trace, that under the invariant it always answers a next state, and that
every operation ends. -/

namespace Sys2Proof.Machine

/-! ### The events of a step -/

/-- What a move that transfers and then ends appends: the transfer, and the release of chip-select if it was asserted. -/
theorem State.csRelease_trace_of_emitted {s : State} (u : State) {e : BusEvent} (h : u.trace = s.trace ++ [e]) :
    u.csRelease.trace = s.trace ++ [e] ∨ u.csRelease.trace = s.trace ++ [e, .csDeassert] := by
  rcases u.csRelease_trace_cases with ht | ⟨-, ht⟩ <;> rw [ht, h]
  · exact .inl rfl
  · exact .inr (List.append_assoc _ _ _)

/-- The events of a move: none, the assertion of chip-select, or one transfer or delay, after which chip-select may be
released (41_handshake.md R150). -/
theorem EngineMove.trace_cases {s t : State} (h : EngineMove s t) :
    t.trace = s.trace ∨ t.trace = s.trace ++ [.csAssert] ∨
      ∃ e, isTransfer e = true ∧ (t.trace = s.trace ++ [e] ∨ t.trace = s.trace ++ [e, .csDeassert]) := by
  cases h with
  | quiet => exact .inl rfl
  | startSend | startPoll | startRead => exact .inr (.inl rfl)
  | timeout => exact .inr (.inr ⟨_, rfl, State.csRelease_trace_of_emitted s.polled rfl⟩)
  | ackBad | ackGood => exact .inr (.inr ⟨_, rfl, State.csRelease_trace_of_emitted s.ackReceived rfl⟩)
  | headerBad | bodyBad => exact .inr (.inr ⟨_, rfl, State.csRelease_trace_of_emitted s.receiveByte rfl⟩)
  | bodyGood _ _ _ _ cmd plen =>
    exact .inr (.inr ⟨_, rfl, State.csRelease_trace_of_emitted (s.receiveByte.setResponse cmd plen) rfl⟩)
  | send | sendLast | readyAck | readyRead | notReady | delay | ackByte | ackThenPoll | ackThenRead | header | headerGood
  | body => exact .inr (.inr ⟨_, rfl, .inl rfl⟩)

/-- Settles O39: quiescence, and the events of a move counted. -/
theorem engineStepEvents : Obligations.EngineStepEvents := by
  refine fun s => ⟨engineStep_quiet, fun t h => ?_⟩
  rcases (engineStep_move h).trace_cases with ht | ht | ⟨e, he, ht | ht⟩
  · exact ⟨[], by simp [ht], by decide, by decide⟩
  · exact ⟨_, ht, by decide, by decide⟩
  · exact ⟨_, ht, by simp [he], by simp [he]⟩
  · have hd : isTransfer .csDeassert = false := rfl
    exact ⟨_, ht, by simp [he, hd], by simp [he, hd]⟩

/-! ### The engine never stops -/

/-- While a response is read IDX lies inside RXF: a frame has at most 255 + 7 bytes (41_handshake.md R162). -/
theorem Inv.idx_lt_rxfSize {s : State} (hi : Inv s) (h : s.status.fsm = .readHdr ∨ s.status.fsm = .readBody) :
    s.idx.toNat < rxfSize := by
  have hst := hi.stage
  unfold rxfSize
  rcases h with hf | hf <;> simp only [State.stage, hf] at hst
  · obtain ⟨-, hlt, -⟩ := hst
    omega
  · obtain ⟨-, -, -, -, -, hlt⟩ := hst
    have := (s.readByte (rxfBase + 3)).isLt
    omega

/-- Settles O41: BUSY 0 is quiescent, and each running state has IDX inside the buffer that it reads or writes. -/
theorem engineNeverStops : Obligations.EngineNeverStops := by
  intro s hi
  have hst := hi.stage
  have hrun := hi.busy
  cases hb : s.status.busy with
  | false => exact ⟨s, engineStep_quiet hb⟩
  | true =>
    cases hf : s.status.fsm with
    | idle | success | failed => simp [hb, hf, Fsm.running] at hrun
    | start =>
      rw [engineStep_start hb hf]
      by_cases hk : s.opk = .sendCheckAck ∨ s.opk = .exchange
      · exact ⟨_, engineStart_sends hk⟩
      · exact ⟨_, engineStart_reads hk⟩
    | sending =>
      simp only [State.stage, hf] at hst
      obtain ⟨-, ⟨-, htxn, -⟩, hidx⟩ := hst
      exact ⟨_, engineStep_sending_eq hb hf (hidx.trans_le htxn)⟩
    | awaitReady => exact ⟨_, engineStep_awaitReady hb hf⟩
    | pollWait => exact ⟨_, engineStep_pollWait hb hf⟩
    | verifyAck =>
      simp only [State.stage, hf] at hst
      obtain ⟨-, hidx, -⟩ := hst
      exact ⟨_, engineStep_verifyAck_eq hb hf hidx⟩
    | readHdr => exact ⟨_, engineStep_readHdr_eq hb hf (hi.idx_lt_rxfSize (.inl hf))⟩
    | readBody => exact ⟨_, engineStep_readBody_eq hb hf (hi.idx_lt_rxfSize (.inr hf))⟩

/-! ### Every operation ends -/

/-- The most steps after the acknowledgement: a poll of 65535 attempts, then a whole response (41_handshake.md R170). -/
def stepsAfterAck : Nat := 2 * 65535 - 1 + rxfSize

/-- The most steps after a poll phase: after phase 1 a whole response, after phase 0 the acknowledgement first. -/
def stepsAfterPoll (ph : Bool) : Nat := if ph then rxfSize else ackrSize + stepsAfterAck

theorem stepsAfterPoll_pos (ph : Bool) : 0 < stepsAfterPoll ph := by
  cases ph <;> decide

/-- The steps that the attempts left can take, two for each: a read and the delay before the next (R168). -/
def State.pollSteps (s : State) : Nat := 2 * (s.limit.toNat - s.att.toNat)

/-- A bound on the engine steps that an operation still takes, from each state of the engine. -/
def State.stepsLeft (s : State) : Nat :=
  match s.status.fsm with
  | .start => stepBound
  | .sending => txfSize - s.idx.toNat + (2 * 65535 - 1) + ackrSize + stepsAfterAck
  | .awaitReady => s.pollSteps - 1 + stepsAfterPoll s.ph
  | .pollWait => s.pollSteps + stepsAfterPoll s.ph
  | .verifyAck => ackrSize - s.idx.toNat + stepsAfterAck
  | .readHdr => rxfSize - s.idx.toNat
  | .readBody => rxfSize - s.idx.toNat
  | .idle => 0
  | .success => 0
  | .failed => 0

/-- The operation has ended. -/
def State.hasEnded (s : State) : Prop := s.status.busy = false ∧ s.status.done = true

theorem State.finish_hasEnded (s : State) (ok : Bool) (e : Err) : (s.finish ok e).hasEnded := by
  simp [State.hasEnded]

/-- Under the invariant a step of a running operation ends it, or leaves fewer steps. -/
theorem EngineMove.ends_or_stepsLeft {s t : State} (hi : Inv s) (hb : s.status.busy = true) (h : EngineMove s t) :
    t.hasEnded ∧ 0 < s.stepsLeft ∨ t.status.busy = true ∧ t.stepsLeft < s.stepsLeft := by
  have hst := hi.stage
  have hlimit := s.limit.isLt
  cases h with
  | quiet h => simp [hb] at h
  | timeout hb hf =>
    refine .inl ⟨State.finish_hasEnded _ _ _, ?_⟩
    simp only [State.stepsLeft, hf]
    exact Nat.add_pos_right _ (stepsAfterPoll_pos _)
  | ackBad hb hf | ackGood hb hf =>
    refine .inl ⟨State.finish_hasEnded _ _ _, ?_⟩
    simp only [State.stepsLeft, hf]
    exact Nat.add_pos_right _ (by decide)
  | headerBad hb hf hx | bodyBad hb hf hx | bodyGood hb hf hx =>
    refine .inl ⟨State.finish_hasEnded _ _ _, ?_⟩
    simp only [State.stepsLeft, hf]
    exact Nat.sub_pos_of_lt hx
  | startSend hb hf =>
    exact .inr ⟨hb, by simp [State.stepsLeft, hf, stepBound, stepsAfterAck, rxfSize, txfSize, ackrSize]⟩
  | startPoll hb hf =>
    refine .inr ⟨hb, ?_⟩
    simp only [State.stepsLeft, hf, State.beginPoll_status, State.pollSteps, State.beginPoll_ph, State.beginPoll_limit,
      State.bracketed_limit, stepBound, stepsAfterPoll, rxfSize, ↓reduceIte]
    omega
  | startRead hb hf => exact .inr ⟨hb, by simp [State.stepsLeft, hf, stepBound, rxfSize]⟩
  | send hb hf hx =>
    refine .inr ⟨hb, ?_⟩
    simp only [State.stepsLeft, hf, State.sentByte_status, State.sentByte_idx, toNat_succ hx (by decide)]
    omega
  | sendLast hb hf hx =>
    refine .inr ⟨hb, ?_⟩
    simp only [State.stepsLeft, hf, State.beginPoll_status, State.pollSteps, State.beginPoll_ph, State.beginPoll_limit,
      State.sentByte_limit, stepsAfterPoll, Bool.false_eq_true, ↓reduceIte]
    omega
  | readyAck hb hf _ hp | readyRead hb hf _ hp =>
    refine .inr ⟨hb, ?_⟩
    simp only [State.stage, hf] at hst
    simp [State.stepsLeft, hf, State.pollSteps, stepsAfterPoll, hp]
    omega
  | notReady hb hf =>
    refine .inr ⟨hb, ?_⟩
    simp only [State.stage, hf] at hst
    simp only [State.stepsLeft, hf, State.setFsm_status, State.pollSteps, State.setFsm_att, State.setFsm_limit,
      State.setFsm_ph, State.polled_att, State.polled_limit, State.polled_ph, att_succ hst.1]
    omega
  | delay hb hf =>
    refine .inr ⟨hb, ?_⟩
    simp only [State.stage, hf] at hst
    show s.pollSteps - 1 + stepsAfterPoll s.ph < s.stepsLeft
    simp only [State.stepsLeft, hf, State.pollSteps]
    omega
  | ackByte hb hf hx =>
    refine .inr ⟨hb, ?_⟩
    simp only [State.stepsLeft, hf, State.ackReceived_status, State.ackReceived_idx, toNat_succ hx (by decide)]
    omega
  | ackThenPoll hb hf hx =>
    refine .inr ⟨hb, ?_⟩
    simp only [State.stepsLeft, hf, State.beginPoll_status, State.pollSteps, State.beginPoll_ph, State.beginPoll_limit,
      State.ackReceived_limit, stepsAfterPoll, stepsAfterAck, ↓reduceIte]
    omega
  | ackThenRead hb hf hx =>
    refine .inr ⟨hb, ?_⟩
    simp only [State.stepsLeft, hf, State.beginRead_status, stepsAfterAck]
    omega
  | header hb hf hx | headerGood hb hf hx | body hb hf hx =>
    refine .inr ⟨hb, ?_⟩
    simp only [State.stepsLeft, hf, State.setFsm_status, State.receiveByte_status, State.setFsm_idx,
      State.receiveByte_idx, toNat_succ hx (by decide)]
    omega

/-- An operation that runs under the invariant ends within the steps it has left. -/
theorem Inv.engineRun_ends {s : State} (hi : Inv s) (hb : s.status.busy = true) :
    ∃ m t, m ≤ s.stepsLeft ∧ engineRun m s = .next t ∧ t.hasEnded := by
  obtain ⟨u, hu⟩ := engineNeverStops s hi
  have hm := engineStep_move hu
  rcases hm.ends_or_stepsLeft hi hb with ⟨hend, hpos⟩ | ⟨hbu, hlt⟩
  · exact ⟨1, u, hpos, engineRun_one hu, hend⟩
  · obtain ⟨m, t, hmn, hrun, hend⟩ := (hm.keeps_inv hi).engineRun_ends hbu
    exact ⟨1 + m, t, by omega, engineRun_trans (engineRun_one hu) hrun, hend⟩
termination_by s.stepsLeft

/-- No state has more steps left than the bound of R170. -/
theorem State.stepsLeft_le_stepBound (s : State) : s.stepsLeft ≤ stepBound := by
  have hlimit := s.limit.isLt
  have hpoll : stepsAfterPoll s.ph ≤ ackrSize + stepsAfterAck := by cases s.ph <;> decide
  unfold State.stepsLeft State.pollSteps
  simp only [stepsAfterAck, ackrSize, rxfSize, txfSize, stepBound] at *
  cases s.status.fsm <;> dsimp only <;> omega

/-- Settles O45, within the steps left at its start. -/
theorem engineTerminates : Obligations.EngineTerminates := by
  intro s hi hb
  obtain ⟨n, t, hn, hrun, hbusy, hdone⟩ := hi.engineRun_ends hb
  exact ⟨n, t, hn.trans s.stepsLeft_le_stepBound, hrun, hbusy, hdone⟩

end Sys2Proof.Machine
end

section
/-! PROOFS. The poll bound. -/

namespace Sys2Proof.Machine

/-- Without an override the bound is the default formula (41_handshake.md R152). -/
theorem Param.attemptsOf_default {p : Param} (tmo : BitVec 16) (ha : p.attempts = []) (hd : p.pollDelayMs ≠ 0) :
    (p.attemptsOf tmo).toNat =
      max 1 (min 65535 ((tmo.toNat + (p.pollDelayMs.toNat - 1)) / p.pollDelayMs.toNat)) := by
  have hpos : 1 ≤ p.pollDelayMs.toNat := Nat.pos_of_ne_zero fun h => hd (BitVec.eq_of_toNat_eq h)
  rw [Param.attemptsOf, ha, List.lookup_nil, BitVec.toNat_ofNat, Param.defaultAttempts, if_neg hd, Nat.add_sub_assoc hpos]
  exact Nat.mod_eq_of_lt (by omega)

/-- An operation that its acceptance leaves running has its bound from TMO (R152). -/
theorem Performed.limit {s t : State} (h : Performed s t) (hb : t.status.busy = true) :
    t.limit = s.param.attemptsOf s.tmo := by
  cases h with
  | sending | reading => rfl
  | _ => simp [State.fail_eq, State.succeed_eq] at hb

/-- An instruction that starts a bus operation sets LIMIT from TMO. -/
theorem exec_starts_limit {i : Instr} {s t : State} (h : exec i s = .next t) (hs : s.status.busy = false)
    (ht : t.status.busy = true) : t.limit = s.param.attemptsOf s.tmo := by
  rcases exec_cases h with hside | ⟨hb, -⟩ | ⟨-, w, hp⟩
  · rw [hside] at ht
    cases hs.symm.trans ht
  · cases hs.symm.trans hb
  · exact hp.limit ht

/-- Settles O53: the range, the formula and its two examples, the acceptance, and the engine, which writes no register of
the host. -/
theorem pollBound : Obligations.PollBound := by
  refine ⟨fun p tmo => ⟨p.attemptsOf_pos tmo, Nat.le_of_lt_succ (p.attemptsOf tmo).isLt⟩,
    fun p tmo => p.attemptsOf_default tmo, fun p ha hd => ?_, fun i s t => exec_starts_limit, fun s t h => ?_⟩
  · have hne : p.pollDelayMs ≠ 0 := by rw [hd]; decide
    rw [p.attemptsOf_default _ ha hne, p.attemptsOf_default _ ha hne, hd]
    decide
  · obtain ⟨-, -, -, hlimit, -⟩ := (engineStep_move h).keeps_registers
    exact hlimit

end Sys2Proof.Machine
end

section
/-! PROOFS. Runs of the engine along a list of bytes, and a poll phase as such a run. -/

namespace Sys2Proof.Machine

/-! ### Runs along a list of bytes -/

/-- A run that handles one byte every `m` steps: `f pre post` is the state with `pre` handled and `post` to come. -/
theorem engineRun_bytes {m : Nat} {f : List Byte → List Byte → State} {bs : List Byte}
    (h : ∀ pre b post, bs = pre ++ b :: post → engineRun m (f pre (b :: post)) = .next (f (pre ++ [b]) post)) :
    engineRun (bs.length * m) (f [] bs) = .next (f bs []) := by
  suffices hrun : ∀ post pre, bs = pre ++ post → engineRun (post.length * m) (f pre post) = .next (f bs []) from
    hrun bs [] rfl
  intro post
  induction post with
  | nil =>
    rintro pre rfl
    rw [List.length_nil, Nat.zero_mul, List.append_nil]
    rfl
  | cons b post ih =>
    intro pre hpre
    rw [List.length_cons, Nat.succ_mul, Nat.add_comm]
    exact engineRun_trans (h pre b post hpre) (ih (pre ++ [b]) (by rw [hpre, List.append_assoc, List.singleton_append]))

theorem ofNat_length_concat {w : Nat} (pre : List Byte) (b : Byte) :
    BitVec.ofNat w (pre ++ [b]).length = BitVec.ofNat w pre.length + 1 := by
  rw [List.length_append, List.length_singleton, BitVec.ofNat_add]
  rfl

theorem Memory.setRange_append (off : Nat) (a b : List Byte) (m : Memory) :
    Memory.setRange off (a ++ b) m = Memory.setRange (off + a.length) b (Memory.setRange off a m) := by
  induction a generalizing off m with
  | nil => rfl
  | cons x a ih =>
    rw [List.cons_append, Memory.setRange, ih, Memory.setRange, List.length_cons, Nat.add_comm a.length, Nat.add_assoc]

/-- A status whose FSM is set to what it is. -/
theorem Status.with_fsm {st : Status} {f : Fsm} (h : st.fsm = f) : { st with fsm := f } = st := by
  rw [← h]

/-- The chip's next answer is the head of its list. -/
theorem State.chipAnswer_cons {s : State} {b : Byte} {rest : List Byte} (h : s.chip = b :: rest) (k : XferKind) :
    s.chipAnswer k = b := by
  rw [State.chipAnswer, h]

/-! ### A poll phase -/

/-- A poll of not-ready bytes and one more reads each with a delay after it, and the last without (41_handshake.md R156,
R158). -/
theorem pollEvents_concat (waits : List Byte) (b : Byte) :
    pollEvents (waits ++ [b]) = waits.flatMap (fun w => [.read .status w, .delay]) ++ [.read .status b] := by
  induction waits with
  | nil => rfl
  | cons w waits ih =>
    rw [List.flatMap_cons, List.append_assoc, ← ih]
    cases waits <;> rfl

/-- The poll has read `waits`, none of them ready, and waited after each; the chip has still `rest` to answer. -/
def State.waited (s : State) (waits rest : List Byte) : State :=
  { s with
    trace := s.trace ++ waits.flatMap (fun w => [.read .status w, .delay])
    chip := rest
    statb := waits.getLastD s.statb
    att := BitVec.ofNat 16 waits.length }

/-- The poll has read the status bytes `polls`; the chip has still `rest` to answer. -/
def State.pollRead (s : State) (polls rest : List Byte) : State :=
  { s with
    trace := s.trace ++ pollEvents polls
    chip := rest
    statb := polls.getLastD s.statb
    att := BitVec.ofNat 16 polls.length }

/-- Where a ready byte leads, by the phase (41_handshake.md R157). -/
def State.pollPassed (s : State) : State := if s.ph then s.beginRead else { s.setFsm .verifyAck with idx := 0 }

theorem State.waited_nil {s : State} (ha : s.att = 0) : s.waited [] s.chip = s := by
  have hzero : BitVec.ofNat 16 0 = s.att := ha.symm
  rw [State.waited, List.flatMap_nil, List.append_nil, List.getLastD_nil, List.length_nil, hzero]

theorem State.polled_waited (s : State) (waits : List Byte) (b : Byte) (rest : List Byte) :
    (s.waited waits (b :: rest)).polled = s.pollRead (waits ++ [b]) rest := by
  simp [State.waited, State.polled, State.busRead, State.chipAnswer, State.pollRead, pollEvents_concat, BitVec.ofNat_add]

/-- The delay after a read that was not the last. -/
theorem State.delayed_pollRead {s : State} (hf : s.status.fsm = .awaitReady) (waits : List Byte) (b : Byte)
    (rest : List Byte) :
    (((s.pollRead (waits ++ [b]) rest).setFsm .pollWait).emit .delay).setFsm .awaitReady =
      s.waited (waits ++ [b]) rest := by
  simp [State.waited, State.emit, State.setFsm, State.pollRead, pollEvents_concat, Status.with_fsm hf]

section

variable {s : State} {waits polls rest : List Byte} {b : Byte} (hb : s.status.busy = true)
  (hf : s.status.fsm = .awaitReady) (ha : s.att = 0)

include hb hf

/-- An attempt: ready, or the last, or a delay to follow (41_handshake.md R157). -/
theorem engineStep_waited :
    engineStep (s.waited waits (b :: rest)) = .next
      (if b.toNat % 2 = 1 then (s.pollRead (waits ++ [b]) rest).pollPassed
       else if BitVec.ofNat 16 (waits ++ [b]).length = s.limit then (s.pollRead (waits ++ [b]) rest).fail .timeout
       else (s.pollRead (waits ++ [b]) rest).setFsm .pollWait) := by
  rw [engineStep_awaitReady_eq (s := s.waited waits (b :: rest)) hb hf, State.polled_waited, ofNat_length_concat]
  rfl

/-- An attempt that is not the last and finds the chip not ready: the read and its delay. -/
theorem engineRun_wait (hn : b.toNat % 2 = 0) (hl : (waits ++ [b]).length < s.limit.toNat) :
    engineRun 2 (s.waited waits (b :: rest)) = .next (s.waited (waits ++ [b]) rest) := by
  have hlimit : BitVec.ofNat 16 (waits ++ [b]).length ≠ s.limit := by
    intro h
    have hmod := congrArg BitVec.toNat h
    rw [BitVec.toNat_ofNat, Nat.mod_eq_of_lt (hl.trans s.limit.isLt)] at hmod
    exact Nat.ne_of_lt hl hmod
  have hread := engineStep_waited (waits := waits) (rest := rest) (b := b) hb hf
  rw [if_neg (by omega), if_neg hlimit] at hread
  have hdelay := engineStep_pollWait (s := (s.pollRead (waits ++ [b]) rest).setFsm .pollWait) hb rfl
  rw [enginePollWait, State.delayed_pollRead hf] at hdelay
  exact engineRun_trans (engineRun_one hread) (engineRun_one hdelay)

include ha

/-- The attempts of a poll that find the chip not ready, each with its delay. -/
theorem engineRun_waits (hn : ∀ w ∈ waits, w.toNat % 2 = 0) (hl : waits.length < s.limit.toNat)
    (hc : s.chip = waits ++ rest) : engineRun (waits.length * 2) s = .next (s.waited waits rest) := by
  have hrun := engineRun_bytes (m := 2) (f := fun pre post => s.waited pre (post ++ rest)) (bs := waits) (by
    rintro pre w post rfl
    refine engineRun_wait hb hf (hn w (by simp)) ?_
    simp only [List.length_append, List.length_cons, List.length_nil] at hl ⊢
    omega)
  rwa [← hc, State.waited_nil ha] at hrun

/-- A poll phase that the chip passes (41_handshake.md R168). -/
theorem engineRun_pollPasses (hp : pollPasses s.limit.toNat polls) (hc : s.chip = polls ++ rest) :
    engineRun (2 * polls.length - 1) s = .next (s.pollRead polls rest).pollPassed := by
  obtain ⟨hl, waits, r, rfl, hn, hr⟩ := hp
  rw [List.length_append, List.length_singleton] at hl ⊢
  rw [List.append_assoc, List.singleton_append] at hc
  have hlast := engineStep_waited (waits := waits) (rest := rest) (b := r) hb hf
  rw [if_pos hr] at hlast
  have hrun := engineRun_trans (engineRun_waits hb hf ha hn (by omega) hc) (engineRun_one hlast)
  rwa [show waits.length * 2 + 1 = 2 * (waits.length + 1) - 1 by omega] at hrun

/-- A poll phase that times out (R168). -/
theorem engineRun_pollFails (hl : 0 < s.limit.toNat) (hp : pollFails s.limit.toNat polls) (hc : s.chip = polls ++ rest) :
    engineRun (2 * polls.length - 1) s = .next ((s.pollRead polls rest).fail .timeout) := by
  obtain ⟨hlen, hn⟩ := hp
  obtain rfl | ⟨waits, w, rfl⟩ := List.eq_nil_or_concat polls
  · exact absurd hlen (Nat.ne_of_lt hl)
  · rw [List.concat_eq_append] at *
    have hlast := engineStep_waited (waits := waits) (rest := rest) (b := w) hb hf
    have hnw := hn w (by simp)
    rw [if_neg (by omega), if_pos (by rw [hlen, BitVec.ofNat_toNat, BitVec.setWidth_eq])] at hlast
    rw [List.length_append, List.length_singleton] at hlen ⊢
    rw [List.append_assoc, List.singleton_append] at hc
    have hrun := engineRun_trans
      (engineRun_waits hb hf ha (fun x hx => hn x (List.mem_append_left _ hx)) (by omega) hc) (engineRun_one hlast)
    rwa [show waits.length * 2 + 1 = 2 * (waits.length + 1) - 1 by omega] at hrun

end

/-- Settles O46: a poll phase that passes and one that times out. -/
theorem pollPhase : Obligations.PollPhase := by
  intro s waits hb hf ha hl hn
  refine ⟨fun r rest hr hlen hc => ?_, fun rest hlen hc => ?_⟩
  · have hlength : (waits ++ [r]).length = waits.length + 1 := by simp
    have hrun := engineRun_pollPasses (polls := waits ++ [r]) (rest := rest) hb hf ha
      ⟨by rwa [hlength], waits, r, rfl, hn, hr⟩ (by rw [hc, List.append_assoc, List.singleton_append])
    rw [hlength, show 2 * (waits.length + 1) - 1 = 2 * waits.length + 1 by omega] at hrun
    refine hrun.trans (congrArg _ ?_)
    rw [State.pollPassed, State.pollRead, hlength, List.getLastD_concat]
    cases hph : s.ph <;> rfl
  · have hrun := engineRun_pollFails (rest := rest) hb hf ha hl ⟨hlen, hn⟩ hc
    rw [hlen] at hrun
    refine hrun.trans (congrArg (Host.Outcome.next <| State.fail · .timeout) ?_)
    have hne : waits ≠ [] := by
      rintro rfl
      exact absurd hlen (Nat.ne_of_lt hl)
    rw [State.pollRead, hlen, BitVec.ofNat_toNat, BitVec.setWidth_eq, List.getLastD_eq_getLast?,
      List.getLastD_eq_getLast?, List.getLast?_eq_getLast_of_ne_nil hne]
    rfl

end Sys2Proof.Machine
end

section
/-! PROOFS. The other phases of an operation as runs of the engine: the frame sent, the acknowledgement, the response. -/

namespace Sys2Proof.Machine

/-- A run that handles one byte a step and leaves its phase with the last: `f pre post` is the state with `pre` handled and
`post` to come, `t` the state after the last. -/
theorem engineRun_bytes_to {f : List Byte → List Byte → State} {t : State} {bs : List Byte} (hne : bs ≠ [])
    (h : ∀ pre b post, bs = pre ++ b :: post →
      engineStep (f pre (b :: post)) = .next (if post = [] then t else f (pre ++ [b]) post)) :
    engineRun bs.length (f [] bs) = .next t := by
  suffices hrun : ∀ post pre, post ≠ [] → bs = pre ++ post → engineRun post.length (f pre post) = .next t from
    hrun bs [] hne rfl
  intro post
  induction post with
  | nil => exact fun _ hp => absurd rfl hp
  | cons b post ih =>
    intro pre _ hpre
    have hstep := h pre b post hpre
    by_cases hp : post = []
    · rw [if_pos hp] at hstep
      rw [hp] at hstep ⊢
      exact engineRun_one hstep
    · rw [if_neg hp] at hstep
      rw [List.length_cons, Nat.add_comm]
      exact engineRun_trans (engineRun_one hstep)
        (ih (pre ++ [b]) hp (by rw [hpre, List.append_assoc, List.singleton_append]))

theorem toNat_ofNat_length {bs : List Byte} (h : bs.length < 512) : (BitVec.ofNat 9 bs.length).toNat = bs.length :=
  (BitVec.toNat_ofNat _ _).trans (Nat.mod_eq_of_lt h)

/-- IDX after one more byte, where `n` is the last value that it takes: no byte is to come. -/
theorem idx_eq_iff_last {bs pre post : List Byte} {b : Byte} {n : BitVec 9} (hs : bs = pre ++ b :: post)
    (hl : bs.length = n.toNat) : BitVec.ofNat 9 pre.length + 1 = n ↔ post = [] := by
  have hlen : pre.length + 1 + post.length = n.toNat := by
    rw [← hl, hs]
    simp
    omega
  have := n.isLt
  rw [← ofNat_length_concat pre b, BitVec.toNat_eq, toNat_ofNat_length (by simp; omega), ← List.length_eq_zero_iff,
    List.length_append, List.length_singleton]
  omega

/-! ### The frame -/

/-- The bytes `bs` of the frame are sent. -/
def State.sent (s : State) (bs : List Byte) : State :=
  { s with trace := s.trace ++ bs.map .write, idx := BitVec.ofNat 9 bs.length }

theorem State.sent_nil {s : State} (hi : s.idx = 0) : s.sent [] = s := by
  have hzero : BitVec.ofNat 9 0 = s.idx := hi.symm
  rw [State.sent, List.map_nil, List.append_nil, List.length_nil, hzero]

/-- SENDING from the first byte of a frame that TXF holds to poll phase 0 (41_handshake.md R154). -/
theorem engineRun_sends {s : State} {frame : List Byte} (hb : s.status.busy = true) (hf : s.status.fsm = .sending)
    (hi : s.idx = 0) (hn : frame ≠ []) (ht : frame.length = s.txn.toNat) (hl : frame.length ≤ txfSize)
    (hm : ∀ i, i < frame.length → Memory.get (txfBase + i) s.mem = frame[i]?) :
    engineRun frame.length s = .next ((s.sent frame).beginPoll false) := by
  have hrun := engineRun_bytes_to (f := fun pre _ => s.sent pre) (t := (s.sent frame).beginPoll false) hn (by
    intro pre b post hs
    have hpre : pre.length < frame.length := by simp [hs]
    have hidx := toNat_ofNat_length (bs := pre) (by unfold txfSize at hl; omega)
    have hbyte : (s.sent pre).readByte (txfBase + (s.sent pre).idx.toNat) = b := by
      refine State.readByte_of_get ?_
      rw [State.sent, hidx, hm _ hpre, hs]
      simp
    have hsent : (s.sent pre).sentByte = s.sent (pre ++ [b]) := by
      rw [State.sentByte, hbyte]
      simp [State.sent, State.emit, BitVec.ofNat_add]
    rw [engineStep_sending_eq (s := s.sent pre) hb hf (by rw [State.sent, hidx]; omega), hsent]
    refine congrArg _ (ite_congr (propext (idx_eq_iff_last hs ht)) (fun hp => ?_) fun _ => rfl)
    rw [hs, hp])
  rwa [State.sent_nil hi] at hrun

/-! ### Data bytes -/

/-- The data bytes `bs` were read into the buffer at `base`; the chip has still `rest` to answer. -/
def State.dataRead (s : State) (base : Nat) (bs rest : List Byte) : State :=
  { s with
    trace := s.trace ++ dataReads bs
    chip := rest
    mem := Memory.setRange base bs s.mem
    idx := BitVec.ofNat 9 bs.length }

theorem State.dataRead_nil {s : State} (base : Nat) (hi : s.idx = 0) : s.dataRead base [] s.chip = s := by
  have hzero : BitVec.ofNat 9 0 = s.idx := hi.symm
  rw [State.dataRead, dataReads, List.map_nil, List.append_nil, List.length_nil, Memory.setRange, hzero]

/-! ### The acknowledgement -/

theorem State.ackReceived_dataRead (s : State) {pre : List Byte} (b : Byte) (rest : List Byte) (h : pre.length < 512) :
    (s.dataRead ackrBase pre (b :: rest)).ackReceived = s.dataRead ackrBase (pre ++ [b]) rest := by
  simp [State.ackReceived, State.dataRead, State.busRead, State.writeByte, State.chipAnswer, dataReads,
    Memory.setRange_append, Memory.setRange, BitVec.ofNat_add, Nat.mod_eq_of_lt h]

/-- The end of the acknowledgement `acks` (41_handshake.md R159, R160). -/
def State.ackChecked (s : State) (acks : List Byte) : State :=
  if acks = ackFrame then (if s.opk = .sendCheckAck then s.succeed else s.afterAck) else s.fail .ackMismatch

/-- VERIFY_ACK from its first byte to its sixth. -/
theorem engineRun_acks {s : State} {acks rest : List Byte} (hb : s.status.busy = true) (hf : s.status.fsm = .verifyAck)
    (hi : s.idx = 0) (hl : acks.length = 6) (hc : s.chip = acks ++ rest) :
    engineRun acks.length s = .next ((s.dataRead ackrBase acks rest).ackChecked acks) := by
  have hrun := engineRun_bytes_to (f := fun pre post => s.dataRead ackrBase pre (post ++ rest))
    (t := (s.dataRead ackrBase acks rest).ackChecked acks) (bs := acks) (by rintro rfl; cases hl) (by
      intro pre b post hs
      have hpre : pre.length < 6 := by rw [← hl, hs]; simp
      rw [List.cons_append, engineStep_verifyAck_eq (s := s.dataRead ackrBase pre _) hb hf
          (by rw [State.dataRead, toNat_ofNat_length (by omega)]; exact hpre),
        State.ackReceived_dataRead s b _ (by omega)]
      refine congrArg _ (ite_congr (propext (idx_eq_iff_last hs hl)) (fun hp => ?_) fun _ => rfl)
      subst hp
      have hbytes : (s.dataRead ackrBase (pre ++ [b]) ([] ++ rest)).ackBytes = acks := by
        rw [State.ackBytes, ← hl, hs]
        exact State.readBytes_setRange rfl
      rw [hbytes, ← hs, ackMatch, State.ackChecked, List.nil_append]
      by_cases hack : acks = ackFrame
      · rw [if_neg (by simp [hack]), if_pos hack]
        rfl
      · rw [if_pos (by simp [hack]), if_neg hack])
  rwa [← hc, State.dataRead_nil _ hi] at hrun

/-! ### The response -/

/-- The bytes `bs` of a response were read into RXF, RXN following IDX (41_handshake.md R161, R162). -/
def State.responseRead (s : State) (bs rest : List Byte) : State :=
  { s.dataRead rxfBase bs rest with rxn := BitVec.ofNat 9 bs.length }

theorem State.responseRead_nil {s : State} (hi : s.idx = 0) (hr : s.rxn = 0) : s.responseRead [] s.chip = s := by
  have hzero : BitVec.ofNat 9 0 = s.rxn := hr.symm
  rw [State.responseRead, State.dataRead_nil _ hi, List.length_nil, hzero]

theorem State.receiveByte_responseRead (s : State) {pre : List Byte} (b : Byte) (rest : List Byte)
    (h : pre.length < 512) : (s.responseRead pre (b :: rest)).receiveByte = s.responseRead (pre ++ [b]) rest := by
  simp [State.receiveByte, State.responseRead, State.dataRead, State.busRead, State.writeByte, State.chipAnswer, dataReads,
    Memory.setRange_append, Memory.setRange, BitVec.ofNat_add, Nat.mod_eq_of_lt h]

theorem State.responseRead_readByte (s : State) {bs : List Byte} (rest : List Byte) {i : Nat} (h : i < bs.length) :
    (s.responseRead bs rest).readByte (rxfBase + i) = bs.getD i 0 := by
  refine State.readByte_of_get ?_
  rw [State.responseRead, State.dataRead, Memory.get_setRange, if_pos (by omega), Nat.add_sub_cancel_left,
    List.getD_eq_getElem _ _ h, List.getElem?_eq_getElem h]

theorem State.responseRead_received (s : State) {bs : List Byte} (rest : List Byte) (h : bs.length < 512) :
    (s.responseRead bs rest).received = bs := by
  rw [State.received, State.responseRead, toNat_ofNat_length h]
  exact State.readBytes_setRange rfl

/-- READ_HDR from its first byte to its fifth (41_handshake.md R161). -/
theorem engineRun_header {s : State} {h rest : List Byte} (hb : s.status.busy = true) (hf : s.status.fsm = .readHdr)
    (hi : s.idx = 0) (hr : s.rxn = 0) (hl : h.length = 5) (hc : s.chip = h ++ rest) :
    engineRun h.length s = .next
      (if headerGood h then (s.responseRead h rest).setFsm .readBody else (s.responseRead h rest).fail .framing) := by
  have hrun := engineRun_bytes_to (f := fun pre post => s.responseRead pre (post ++ rest))
    (t := if headerGood h then (s.responseRead h rest).setFsm .readBody else (s.responseRead h rest).fail .framing)
    (bs := h) (by rintro rfl; cases hl) (by
      intro pre b post hs
      have hpre : pre.length < 5 := by rw [← hl, hs]; simp
      rw [List.cons_append, engineStep_readHdr_eq (s := s.responseRead pre _) hb hf
          (by rw [State.responseRead, State.dataRead, toNat_ofNat_length (by omega)]; unfold rxfSize; omega),
        State.receiveByte_responseRead s b _ (by omega)]
      refine congrArg _ (ite_congr (propext (idx_eq_iff_last hs hl)) (fun hp => ?_) fun _ => rfl)
      subst hp
      have hbytes : (s.responseRead (pre ++ [b]) ([] ++ rest)).readBytes rxfBase 5 = h := by
        rw [← hl, hs]
        exact State.readBytes_setRange rfl
      rw [hbytes, ← hs, List.nil_append])
  rwa [← hc, State.responseRead_nil hi hr] at hrun

/-- READ_BODY from its first byte to the last that LEN announces (R162). -/
theorem engineRun_body {s : State} {h body rest : List Byte} (hb : s.status.busy = true) (hf : s.status.fsm = .readBody)
    (hh : h.length = 5) (hne : body ≠ []) (hl : (h ++ body).length = (h.getD 3 0).toNat + 7) :
    engineRun body.length (s.responseRead h (body ++ rest)) = .next (s.responseRead (h ++ body) rest).completeResponse := by
  have hlen := (h.getD 3 0).isLt
  have hrun := engineRun_bytes_to (f := fun pre post => s.responseRead (h ++ pre) (post ++ rest))
    (t := (s.responseRead (h ++ body) rest).completeResponse) hne (by
      intro pre b post hs
      have hpre : (h ++ pre).length + 1 + post.length = (h ++ body).length := by simp [hs]; omega
      have hidx := toNat_ofNat_length (bs := h ++ pre) (by omega)
      have hthree : ((h ++ pre) ++ [b]).getD 3 0 = h.getD 3 0 := by
        rw [List.append_assoc, List.getD_append _ _ _ _ (by omega)]
      rw [List.cons_append, engineStep_readBody_eq (s := s.responseRead (h ++ pre) _) hb hf
          (by rw [State.responseRead, State.dataRead, hidx]; unfold rxfSize; omega),
        State.receiveByte_responseRead s b _ (by omega), State.responseRead_readByte s _ (by simp; omega), hthree,
        State.responseRead, State.dataRead, hidx]
      refine congrArg _ (ite_congr (propext ?_) (fun hp => ?_) fun _ => ?_)
      · rw [← List.length_eq_zero_iff]
        omega
      · rw [hs, hp, List.append_assoc, List.nil_append]
      · rw [List.append_assoc])
  rwa [List.append_nil] at hrun

end Sys2Proof.Machine
end

section
/-! PROOFS. Whole operations: SEND_CHECK_ACK, READ_RESPONSE and EXCHANGE from acceptance to their end. -/

namespace Sys2Proof.Machine

/-! ### The end of an operation -/

/-- The operation has ended with `out`: the error, RESP_CMD, RESP_LEN (60_exceptions.md R226, 10_state.md R31). -/
def State.endedAs (s : State) (out : Err × Byte × Byte) : State :=
  { s.csRelease with opk := .none, status := s.status.endedWith out }

@[simp] theorem State.endedAs_status (s : State) (out : Err × Byte × Byte) :
    (s.endedAs out).status = s.status.endedWith out := rfl
@[simp] theorem State.endedAs_rxn (s : State) (out : Err × Byte × Byte) : (s.endedAs out).rxn = s.rxn := s.csRelease_rxn
@[simp] theorem State.endedAs_att (s : State) (out : Err × Byte × Byte) : (s.endedAs out).att = s.att := s.csRelease_att
@[simp] theorem State.endedAs_statb (s : State) (out : Err × Byte × Byte) : (s.endedAs out).statb = s.statb :=
  s.csRelease_statb
@[simp] theorem State.endedAs_chip (s : State) (out : Err × Byte × Byte) : (s.endedAs out).chip = s.chip :=
  s.csRelease_chip
@[simp] theorem State.endedAs_readBytes (s : State) (out : Err × Byte × Byte) (off n : Nat) :
    (s.endedAs out).readBytes off n = s.readBytes off n :=
  State.readBytes_congr fun _ _ => State.readByte_congr (congrArg _ s.csRelease_mem) s.csRelease_tick

theorem State.endedAs_trace {s : State} (h : s.status.cs = true) (out : Err × Byte × Byte) :
    (s.endedAs out).trace = s.trace ++ [BusEvent.csDeassert] := by
  rw [State.endedAs, State.csRelease_of_asserted s h]

theorem State.fail_eq_endedAs {s : State} {e : Err} (he : e ≠ .noError)
    (hr : s.status.respCmd = 0 ∧ s.status.respLen = 0) : s.fail e = s.endedAs (e, 0, 0) := by
  obtain ⟨hcmd, hlen⟩ := hr
  simp [State.fail, State.finish, State.endedAs, Status.endedWith, he, hcmd, hlen]

theorem State.succeed_eq_endedAs (s : State) (c n : Byte) : (s.setResponse c n).succeed = s.endedAs (.noError, c, n) := by
  cases hc : s.status.cs <;>
    simp [State.succeed, State.finish, State.endedAs, Status.endedWith, State.csRelease, State.setResponse, hc]

/-- A response ends with the outcome of the bytes that were read (41_handshake.md R163). -/
theorem State.completeResponse_eq_endedAs {s : State} (hr : s.status.respCmd = 0 ∧ s.status.respLen = 0) :
    s.completeResponse = s.endedAs (responseOutcome s.received s.cmdl) := by
  have htfi : (0xD5#8 : Byte) = tfiToHost := rfl
  rw [responseOutcome, htfi]
  cases hd : decodeFrame s.received tfiToHost with
  | err e =>
    rw [State.completeResponse_err hd]
    refine State.fail_eq_endedAs ?_ hr
    rcases decodeFrame_err hd with rfl | rfl <;> decide
  | ok c n =>
    rw [State.completeResponse_ok hd]
    dsimp only
    split
    · exact s.succeed_eq_endedAs c n
    · exact State.fail_eq_endedAs (by decide) hr

/-- The acknowledgement of SEND_CHECK_ACK ends the operation (R159). -/
theorem State.ackChecked_eq_endedAs {s : State} (hk : s.opk = .sendCheckAck)
    (hr : s.status.respCmd = 0 ∧ s.status.respLen = 0) (acks : List Byte) :
    s.ackChecked acks = s.endedAs (if acks = ackFrame then .noError else .ackMismatch, 0, 0) := by
  rw [State.ackChecked, if_pos hk]
  split
  · obtain ⟨hcmd, hlen⟩ := hr
    have hsame : s.setResponse s.status.respCmd s.status.respLen = s := rfl
    rw [hcmd, hlen] at hsame
    rw [← s.succeed_eq_endedAs, hsame]
  · exact State.fail_eq_endedAs (by decide) hr

/-! ### The response part -/

theorem headerPasses_iff {f : List Byte} (h : 5 ≤ f.length) : headerPasses f ↔ headerGood (f.take 5) = true := by
  match f, h with
  | b0 :: b1 :: b2 :: len :: l :: body, _ =>
    rw [show (b0 :: b1 :: b2 :: len :: l :: body).take 5 = [b0, b1, b2, len, l] from rfl, headerGood_iff]
    simp [headerPasses, and_assoc]

section

variable {s : State} {rest : List Byte} (hb : s.status.busy = true) (hf : s.status.fsm = .readHdr) (hi : s.idx = 0)
  (hrxn : s.rxn = 0) (hr : s.status.respCmd = 0 ∧ s.status.respLen = 0)

include hb hf hi hrxn hr

/-- A response with a bad header ends after its fifth byte (41_handshake.md R161). -/
theorem engineRun_badHeader {h : List Byte} (hl : h.length = 5) (hh : ¬ headerPasses h) (hc : s.chip = h ++ rest) :
    engineRun h.length s = .next ((s.responseRead h rest).endedAs (.framing, 0, 0)) := by
  rw [headerPasses_iff hl.ge, List.take_of_length_le hl.le] at hh
  rw [engineRun_header hb hf hi hrxn hl hc, if_neg hh]
  exact congrArg _ (State.fail_eq_endedAs (by decide) hr)

/-- A response with a good header is read to its end and ends with its outcome (R162, R163). -/
theorem engineRun_frame {f : List Byte} (hh : headerPasses f) (hl : f.length = (f.getD 3 0).toNat + 7)
    (hc : s.chip = f ++ rest) :
    engineRun f.length s = .next (((s.setFsm .readBody).responseRead f rest).endedAs (responseOutcome f s.cmdl)) := by
  have hlen := (f.getD 3 0).isLt
  have hgood := (headerPasses_iff (by omega)).mp hh
  obtain ⟨h, body, rfl, hh5⟩ : ∃ h body, f = h ++ body ∧ h.length = 5 :=
    ⟨f.take 5, f.drop 5, (List.take_append_drop 5 f).symm, by simp; omega⟩
  rw [List.take_left' hh5] at hgood
  rw [List.append_assoc] at hc
  have hheader := engineRun_header hb hf hi hrxn hh5 hc
  rw [if_pos hgood] at hheader
  have hthree : (h ++ body).getD 3 0 = h.getD 3 0 := List.getD_append _ _ _ _ (by omega)
  have hne : body ≠ [] := by
    rintro rfl
    rw [List.append_nil] at hl
    omega
  have hbody := engineRun_body (s := s.setFsm .readBody) (rest := rest) hb rfl hh5 hne (by rw [hl, hthree])
  rw [List.length_append]
  refine (engineRun_trans hheader hbody).trans (congrArg _ ?_)
  have hend := State.completeResponse_eq_endedAs (s := (s.setFsm .readBody).responseRead (h ++ body) rest) hr
  rwa [State.responseRead_received _ _ (by omega)] at hend

end

/-- `t` has read the status bytes `polls` and the data bytes `data` since `s`, the state before the response part
(41_handshake.md R161 to R163, R168). -/
structure ResponseRead (s : State) (polls data rest : List Byte) (t : State) : Prop where
  trace : t.trace = s.trace ++ pollEvents polls ++ dataReads data
  status : ∃ f, t.status = { s.status with fsm := f }
  rxf : t.readBytes 0x400 data.length = data
  ackr : t.readBytes 0x600 6 = s.readBytes 0x600 6
  rxn : t.rxn = if data = [] then s.rxn else BitVec.ofNat 9 data.length
  att : t.att = if polls = [] then s.att else BitVec.ofNat 16 polls.length
  statb : t.statb = polls.getLastD s.statb
  chip : t.chip = rest

theorem State.afterAck_eq_repoll {s : State} (h : s.param.repoll = true) :
    s.afterAck = { s.beginPoll true with idx := 0 } := by
  rw [State.afterAck, if_pos h]

theorem State.afterAck_eq_read {s : State} (h : s.param.repoll = false) : s.afterAck = s.beginRead := by
  rw [State.afterAck, if_neg (by simp [h])]

/-- READ_HDR entered after the poll `polls`, or without one when the list is empty. -/
def State.readEntered (s : State) (polls rest : List Byte) : State :=
  { s with
    trace := s.trace ++ pollEvents polls
    chip := rest
    statb := polls.getLastD s.statb
    att := if polls = [] then s.att else BitVec.ofNat 16 polls.length
    ph := if polls = [] then s.ph else true
    idx := 0
    rxn := 0
    status := { s.status with fsm := .readHdr } }

/-- From the end of the send part, or of START, to READ_HDR: with re-poll through poll phase 1 (41_handshake.md R160). -/
theorem engineRun_afterAck_to_read {s : State} {polls rest : List Byte} (hb : s.status.busy = true)
    (hp : if s.param.repoll then pollPasses s.limit.toNat polls else polls = []) (hc : s.chip = polls ++ rest) :
    engineRun (2 * polls.length - 1) s.afterAck = .next (s.readEntered polls rest) := by
  cases hr : s.param.repoll with
  | false =>
    rw [hr, if_neg (by decide)] at hp
    subst hp
    rw [State.afterAck_eq_read hr, State.readEntered, pollEvents, List.append_nil, ← show s.chip = rest from hc]
    rfl
  | true =>
    rw [hr, if_pos rfl] at hp
    have hne : polls ≠ [] := by
      obtain ⟨-, waits, r, rfl, -⟩ := hp
      simp
    rw [State.afterAck_eq_repoll hr, State.readEntered, if_neg hne, if_neg hne]
    exact engineRun_pollPasses (s := { s.beginPoll true with idx := 0 }) hb rfl rfl hp hc

/-- A response read after its poll, seen from before the poll. -/
theorem State.readEntered_responseRead (s : State) (polls : List Byte) {data : List Byte} (rest : List Byte) (f : Fsm)
    (hne : data ≠ []) (hl : data.length ≤ rxfSize) :
    ResponseRead s polls data rest (((s.readEntered polls (data ++ rest)).setFsm f).responseRead data rest) where
  trace := rfl
  status := ⟨f, rfl⟩
  rxf := State.readBytes_setRange rfl
  ackr := by
    refine State.readBytes_congr fun i hi => State.readByte_congr ?_ rfl
    refine (Memory.get_setRange data rxfBase _ s.mem).trans (if_neg ?_)
    unfold rxfBase
    unfold rxfSize at hl
    omega
  rxn := (if_neg hne).symm
  att := rfl
  statb := rfl
  chip := rfl

theorem ResponsePart.polls_length {repoll : Bool} {limit : Nat} {cmd : Byte} {polls data : List Byte}
    {out : Err × Byte × Byte} (h : ResponsePart repoll limit cmd polls data out) : polls.length ≤ limit := by
  cases h with
  | timeout _ hp =>
    obtain ⟨hlen, -⟩ := hp
    exact hlen.le
  | header _ hp | frame _ hp =>
    split at hp
    · obtain ⟨hlen, -⟩ := hp
      exact hlen
    · simp [hp]

/-- The response part from the end of the send part, or of START, to the end of the operation (41_handshake.md R166, R167). -/
theorem engineRun_responsePart {s : State} {polls data rest : List Byte} {out : Err × Byte × Byte}
    (hb : s.status.busy = true) (hr : s.status.respCmd = 0 ∧ s.status.respLen = 0) (hl : 0 < s.limit.toNat)
    (hp : ResponsePart s.param.repoll s.limit.toNat s.cmdl polls data out) (hc : s.chip = polls ++ data ++ rest) :
    ∃ t, engineRun (2 * polls.length - 1 + data.length) s.afterAck = .next (t.endedAs out) ∧
      ResponseRead s polls data rest t := by
  rw [List.append_assoc] at hc
  cases hp with
  | timeout hrepoll hp =>
    have hne : polls ≠ [] := by
      rintro rfl
      obtain ⟨hlen, -⟩ := hp
      exact absurd hlen (Nat.ne_of_lt hl)
    rw [State.afterAck_eq_repoll hrepoll]
    refine ⟨_, (engineRun_pollFails (s := { s.beginPoll true with idx := 0 }) hb rfl rfl hl hp hc).trans
      (congrArg _ (State.fail_eq_endedAs (by decide) hr)), ?_⟩
    exact ⟨(List.append_nil _).symm, ⟨_, rfl⟩, rfl, rfl, rfl, (if_neg hne).symm, rfl, rfl⟩
  | header _ hp hlen hh =>
    have hread := engineRun_badHeader (s := s.readEntered polls (data ++ rest)) hb rfl rfl rfl hr hlen hh rfl
    exact ⟨_, engineRun_trans (engineRun_afterAck_to_read hb hp hc) hread,
      s.readEntered_responseRead polls rest .readHdr (by rintro rfl; cases hlen) (by unfold rxfSize; omega)⟩
  | frame _ hp hh hlen =>
    have hread := engineRun_frame (s := s.readEntered polls (data ++ rest)) hb rfl rfl rfl hr hh hlen rfl
    have hmax := (data.getD 3 0).isLt
    exact ⟨_, engineRun_trans (engineRun_afterAck_to_read hb hp hc) hread,
      s.readEntered_responseRead polls rest .readBody (by rintro rfl; cases hlen) (by unfold rxfSize; omega)⟩

/-! ### The send part -/

/-- A bus operation was accepted on a quiet block (30_encoding.md R91). -/
structure OpStarted (s u : State) (k : OpKind) (cmd : Byte) : Prop extends WordFrame s u where
  status : u.status =
    { busy := true, done := false, ok := false, err := .noError, cs := false, rej := false, fsm := .start, respCmd := 0,
      respLen := 0 }
  opk : u.opk = k
  limit : u.limit = s.param.attemptsOf s.tmo
  cmdl : u.cmdl = cmd
  att : u.att = 0

theorem OpStarted.busy {s u : State} {k : OpKind} {cmd : Byte} (h : OpStarted s u k cmd) : u.status.busy = true := by
  rw [h.status]

theorem OpStarted.fsm {s u : State} {k : OpKind} {cmd : Byte} (h : OpStarted s u k cmd) : u.status.fsm = .start := by
  rw [h.status]

theorem OpStarted.response {s u : State} {k : OpKind} {cmd : Byte} (h : OpStarted s u k cmd) :
    u.status.respCmd = 0 ∧ u.status.respLen = 0 := by
  rw [h.status]
  exact ⟨rfl, rfl⟩

theorem OpStarted.limit_pos {s u : State} {k : OpKind} {cmd : Byte} (h : OpStarted s u k cmd) : 0 < u.limit.toNat :=
  h.limit ▸ Param.attemptsOf_pos _ _

theorem started_opStarted {s : State} (hq : s.quiet) (w : Word) (m : Memory) (txn : BitVec 9) (k : OpKind) (cmd : Byte) :
    OpStarted s { s.started w k cmd with mem := m, txn := txn } k cmd :=
  { started_wordFrame hq w m txn k cmd with status := rfl, opk := rfl, limit := rfl, cmdl := rfl, att := rfl }

/-- SEND_CHECK_ACK and EXCHANGE with a payload that fits: the frame is in TXF and the operation has started. -/
theorem exec_sending_opStarted {s : State} {i : Instr} {k : OpKind} {low : Nat} {cmd plen : Byte} (hq : s.quiet)
    (hi : (i, k, low) ∈ [(Instr.fceSendAck cmd plen, OpKind.sendCheckAck, 0x04),
      (Instr.fceExchange cmd plen, OpKind.exchange, 0x06)])
    (hp : plen.toNat ≤ s.param.maxPlen.val) :
    ∃ u, exec i s = .next u ∧ framed s u cmd plen ∧ OpStarted s u k cmd := by
  obtain ⟨hsend, -⟩ := busOperationsStart s cmd plen hq
  obtain ⟨u, hu, hframed, heq⟩ := (hsend i k low hi).2 hp
  exact ⟨u, hu, hframed, heq ▸ started_opStarted hq _ u.mem u.txn k cmd⟩

/-- The frame was sent and poll phase 0 begins (41_handshake.md R153, R154). -/
def State.frameSent (u : State) (frame : List Byte) : State := ((u.bracketed.setFsm .sending).sent frame).beginPoll false

/-- The frame was sent and the status bytes `polls` were read. -/
def State.sendPolled (u : State) (frame polls rest : List Byte) : State :=
  { u with
    trace := u.trace ++ [BusEvent.csAssert] ++ frame.map BusEvent.write ++ pollEvents polls
    chip := rest
    statb := polls.getLastD u.statb
    att := BitVec.ofNat 16 polls.length
    ph := false
    idx := BitVec.ofNat 9 frame.length
    status := { u.status with cs := true, fsm := .awaitReady } }

theorem State.frameSent_pollRead (u : State) (frame polls rest : List Byte) :
    (u.frameSent frame).pollRead polls rest = u.sendPolled frame polls rest := rfl

/-- The frame was sent, the poll passed, and the first byte of the acknowledgement is to come. -/
def State.ackEntered (u : State) (frame polls rest : List Byte) : State :=
  { (u.sendPolled frame polls rest).setFsm .verifyAck with idx := 0 }

theorem State.sendPolled_pollPassed (u : State) (frame polls rest : List Byte) :
    (u.sendPolled frame polls rest).pollPassed = u.ackEntered frame polls rest := rfl

/-- The bytes of the acknowledgement were read. -/
def State.acked (u : State) (frame polls acks rest : List Byte) : State :=
  (u.ackEntered frame polls (acks ++ rest)).dataRead ackrBase acks rest

section

variable {s u : State} {k : OpKind} {cmd plen : Byte} {polls acks rest : List Byte} (hu : OpStarted s u k cmd)
  (hk : k = .sendCheckAck ∨ k = .exchange) (hfr : framed s u cmd plen) (hp : plen.toNat ≤ s.param.maxPlen.val)

include hu hk hfr hp

/-- START and SENDING of an operation that sends: one step for START and one for each byte of the frame (R170). -/
theorem engineRun_sendPart :
    engineRun (1 + (plen.toNat + 9)) u = .next (u.frameSent (encodeFrame cmd (s.readBytes 0x100 plen.toNat))) := by
  have hmax := s.param.maxPlen.isLt
  obtain ⟨htxn, htxf, -⟩ := hfr
  have hlen : (encodeFrame cmd (s.readBytes 0x100 plen.toNat)).length = plen.toNat + 9 := by simp
  have hstart : engineStep u = .next (u.bracketed.setFsm .sending) := by
    rw [engineStep_start hu.busy hu.fsm]
    exact engineStart_sends (by rwa [hu.opk])
  have hsend := engineRun_sends (s := u.bracketed.setFsm .sending) (frame := encodeFrame cmd (s.readBytes 0x100 plen.toNat))
    hu.busy rfl rfl (by rw [← List.length_pos_iff]; omega) (hlen.trans htxn.symm) (by unfold txfSize; omega)
    (fun i hi => htxf i (by omega))
  rw [hlen] at hsend
  exact engineRun_trans (engineRun_one hstart) hsend

/-- The send part against a chip that is never ready (R168). -/
theorem engineRun_sendPart_timeout (hpoll : pollFails (s.param.attemptsOf s.tmo).toNat polls)
    (hc : s.chip = polls ++ rest) :
    engineRun (1 + (plen.toNat + 9) + (2 * polls.length - 1)) u = .next
      ((u.sendPolled (encodeFrame cmd (s.readBytes 0x100 plen.toNat)) polls rest).endedAs (.timeout, 0, 0)) := by
  rw [← hu.limit] at hpoll
  have htimeout := engineRun_pollFails (s := u.frameSent (encodeFrame cmd (s.readBytes 0x100 plen.toNat))) hu.busy rfl rfl
    hu.limit_pos hpoll (hu.chip.trans hc)
  rw [State.frameSent_pollRead, State.fail_eq_endedAs (s := u.sendPolled _ _ _) (by decide) hu.response] at htimeout
  exact engineRun_trans (engineRun_sendPart hu hk hfr hp) htimeout

/-- The send part against a chip that becomes ready and then sends six bytes (R168, R159). -/
theorem engineRun_sendPart_acks (hpoll : pollPasses (s.param.attemptsOf s.tmo).toNat polls) (hl : acks.length = 6)
    (hc : s.chip = polls ++ acks ++ rest) :
    engineRun (1 + (plen.toNat + 9) + (2 * polls.length - 1) + 6) u = .next
      ((u.acked (encodeFrame cmd (s.readBytes 0x100 plen.toNat)) polls acks rest).ackChecked acks) := by
  rw [← hu.limit] at hpoll
  rw [List.append_assoc] at hc
  have hsend := engineRun_sendPart hu hk hfr hp
  have hready := engineRun_pollPasses (s := u.frameSent (encodeFrame cmd (s.readBytes 0x100 plen.toNat))) hu.busy rfl rfl
    hpoll (hu.chip.trans hc)
  rw [State.frameSent_pollRead, State.sendPolled_pollPassed] at hready
  have hack := engineRun_acks (s := u.ackEntered (encodeFrame cmd (s.readBytes 0x100 plen.toNat)) polls (acks ++ rest))
    hu.busy rfl rfl hl rfl
  rw [hl] at hack
  exact engineRun_trans (engineRun_trans hsend hready) hack

end

/-! ### SEND_CHECK_ACK -/

/-- The number of attempts, while it does not exceed the bound, is ATT. -/
theorem toNat_attempts {polls : List Byte} {limit : BitVec 16} (h : polls.length ≤ limit.toNat) :
    (BitVec.ofNat 16 polls.length).toNat = polls.length :=
  (BitVec.toNat_ofNat _ _).trans (Nat.mod_eq_of_lt (h.trans_lt limit.isLt))

theorem State.sendPolled_trace (u : State) (frame polls rest : List Byte) :
    (u.sendPolled frame polls rest).trace =
      u.trace ++ [BusEvent.csAssert] ++ frame.map BusEvent.write ++ pollEvents polls := rfl

theorem State.acked_trace (u : State) (frame polls acks rest : List Byte) :
    (u.acked frame polls acks rest).trace =
      u.trace ++ [BusEvent.csAssert] ++ frame.map BusEvent.write ++ pollEvents polls ++ dataReads acks := rfl

theorem State.acked_readBytes (u : State) (frame polls : List Byte) {acks : List Byte} (rest : List Byte)
    (h : acks.length = 6) : (u.acked frame polls acks rest).readBytes 0x600 6 = acks := by
  rw [← h]
  exact State.readBytes_setRange rfl

/-- Settles O47: the send part, which ends with the acknowledgement's check or with the timeout. -/
theorem sendCheckAckRun : Obligations.SendCheckAckRun := by
  intro s cmd plen waits hq hp hn
  obtain ⟨u, hexec, hfr, hu⟩ := exec_sending_opStarted hq (List.mem_cons_self) hp
  refine ⟨u, hexec, fun r acks rest hr hlen hacks hc => ?_, fun rest hlen hc => ?_⟩
  · have hpolls : (waits ++ [r]).length = waits.length + 1 := by simp
    have hrun := engineRun_sendPart_acks (polls := waits ++ [r]) hu (.inl rfl) hfr hp
      ⟨hpolls ▸ hlen, waits, r, rfl, hn, hr⟩ hacks (by simpa using hc)
    rw [State.ackChecked_eq_endedAs (s := u.acked _ _ _ _) hu.opk hu.response, hpolls] at hrun
    refine ⟨_, hrun, ?_, ?_, ?_, ?_, ?_, ?_, ?_⟩
    · rw [State.endedAs_trace rfl, State.acked_trace, hu.trace]
      simp only [List.append_assoc]
    · show u.status.endedWith (if acks = ackFrame then .noError else .ackMismatch, 0, 0) = _
      rw [hu.status]
      by_cases hack : acks = ackFrame <;> simp [hack, Status.endedWith]
    · rw [State.endedAs_readBytes, State.acked_readBytes u _ _ _ hacks]
    · rw [State.endedAs_att, ← hpolls]
      exact toNat_attempts (hpolls ▸ hlen)
    · rw [State.endedAs_statb]
      exact List.getLastD_concat
    · exact State.endedAs_chip _ _
    · exact (State.endedAs_rxn _ _).trans hu.rxn
  · have hrun := engineRun_sendPart_timeout hu (.inl rfl) hfr hp ⟨hlen, hn⟩ hc
    refine ⟨_, hrun, ?_, ?_, ?_, ?_⟩
    · rw [State.endedAs_trace rfl, State.sendPolled_trace, hu.trace]
      simp only [List.append_assoc]
    · show u.status.endedWith (.timeout, 0, 0) = _
      rw [hu.status]
      rfl
    · rw [State.endedAs_att]
      exact toNat_attempts hlen.le
    · exact State.endedAs_chip _ _

/-! ### READ_RESPONSE -/

/-- What the response part read is there when the operation has ended. -/
theorem ResponseRead.ended_trace {s t : State} {polls data rest : List Byte} (h : ResponseRead s polls data rest t)
    (hcs : s.status.cs = true) (out : Err × Byte × Byte) :
    (t.endedAs out).trace = s.trace ++ pollEvents polls ++ dataReads data ++ [BusEvent.csDeassert] := by
  obtain ⟨f, hf⟩ := h.status
  rw [State.endedAs_trace (by rw [hf]; exact hcs), h.trace]

theorem ResponseRead.ended_status {s t : State} {polls data rest : List Byte} (h : ResponseRead s polls data rest t)
    (out : Err × Byte × Byte) : (t.endedAs out).status = s.status.endedWith out := by
  obtain ⟨f, hf⟩ := h.status
  rw [State.endedAs_status, hf]
  rfl

/-- A whole READ_RESPONSE: START, the poll with re-poll, the response (41_handshake.md R166). -/
theorem readResponseRun_readResponse {s : State} (cmd plen : Byte) {polls data rest : List Byte} {out : Err × Byte × Byte}
    (hq : s.quiet) (hp : ResponsePart s.param.repoll (s.param.attemptsOf s.tmo).toNat cmd polls data out)
    (hc : s.chip = polls ++ data ++ rest) :
    ∃ u t, exec (.fceReadResp cmd plen) s = .next u ∧
      engineRun (1 + (2 * polls.length - 1) + data.length) u = .next t ∧
      t.trace = s.trace ++ ([BusEvent.csAssert] ++ pollEvents polls ++ dataReads data ++ [BusEvent.csDeassert]) ∧
      t.status = u.status.endedWith out ∧ t.readBytes 0x400 data.length = data ∧
      (t.rxn = if data = [] then s.rxn else BitVec.ofNat 9 data.length) ∧ t.att.toNat = polls.length ∧
      t.statb = polls.getLastD s.statb ∧ t.chip = rest := by
  obtain ⟨-, hexec⟩ := busOperationsStart s cmd plen hq
  generalize hu : s.started (wordOf 0x05 cmd plen) .readResponse cmd = u at hexec
  have hstarted : OpStarted s u .readResponse cmd := hu ▸ started_opStarted hq _ s.mem s.txn .readResponse cmd
  have hstart : engineStep u = .next u.bracketed.afterAck := by
    rw [engineStep_start hstarted.busy hstarted.fsm]
    exact engineStart_reads (by rw [hstarted.opk]; decide)
  rw [← hstarted.limit, ← hstarted.param, ← hstarted.cmdl] at hp
  obtain ⟨t, hrun, ht⟩ := engineRun_responsePart (s := u.bracketed) hstarted.busy hstarted.response hstarted.limit_pos hp
    (hstarted.chip.trans hc)
  refine ⟨u, t.endedAs out, hexec, ?_, ?_, ht.ended_status out, ?_, ?_, ?_, ?_, ?_⟩
  · rw [Nat.add_assoc]
    exact engineRun_trans (engineRun_one hstart) hrun
  · rw [ht.ended_trace rfl, State.bracketed_trace, hstarted.trace]
    simp only [List.append_assoc]
  · rw [State.endedAs_readBytes, ht.rxf]
  · rw [State.endedAs_rxn, ht.rxn, State.bracketed_rxn, hstarted.rxn]
  · rw [State.endedAs_att, ht.att, State.bracketed_att, hstarted.att]
    split
    · rename_i hnil
      rw [hnil]
      rfl
    · exact toNat_attempts hp.polls_length
  · rw [State.endedAs_statb, ht.statb, State.bracketed_statb, hstarted.statb]
  · rw [State.endedAs_chip, ht.chip]

/-! ### EXCHANGE -/

section

variable {s u : State} {cmd plen : Byte} {polls rest : List Byte} (hu : OpStarted s u .exchange cmd)
  (hfr : framed s u cmd plen) (hp : plen.toNat ≤ s.param.maxPlen.val)

include hu hfr hp

/-- EXCHANGE against a chip that is never ready after the frame (41_handshake.md R168). -/
theorem exchange_timeout (hpoll : pollFails (s.param.attemptsOf s.tmo).toNat polls) (hc : s.chip = polls ++ rest) :
    ∃ t, engineRun (1 + (plen.toNat + 9) + (2 * polls.length - 1)) u = .next t ∧
      t.trace = s.trace ++ ([BusEvent.csAssert] ++ (encodeFrame cmd (s.readBytes 0x100 plen.toNat)).map BusEvent.write ++
        pollEvents polls ++ [BusEvent.csDeassert]) ∧
      t.status = u.status.endedWith (.timeout, 0, 0) ∧ t.rxn = s.rxn ∧ t.att.toNat = polls.length ∧ t.chip = rest := by
  refine ⟨_, engineRun_sendPart_timeout hu (.inr rfl) hfr hp hpoll hc, ?_, rfl, ?_, ?_, ?_⟩
  · rw [State.endedAs_trace rfl, State.sendPolled_trace, hu.trace]
    simp only [List.append_assoc]
  · exact (State.endedAs_rxn _ _).trans hu.rxn
  · rw [State.endedAs_att]
    exact toNat_attempts hpoll.1.le
  · exact State.endedAs_chip _ _

/-- EXCHANGE against a chip that sends six other bytes than the acknowledgement (R159). -/
theorem exchange_ackMismatch {acks : List Byte} (hpoll : pollPasses (s.param.attemptsOf s.tmo).toNat polls)
    (hl : acks.length = 6) (hne : acks ≠ ackFrame) (hc : s.chip = polls ++ acks ++ rest) :
    ∃ t, engineRun (1 + (plen.toNat + 9) + (2 * polls.length - 1) + 6) u = .next t ∧
      t.trace = s.trace ++ ([BusEvent.csAssert] ++ (encodeFrame cmd (s.readBytes 0x100 plen.toNat)).map BusEvent.write ++
        pollEvents polls ++ dataReads acks ++ [BusEvent.csDeassert]) ∧
      t.status = u.status.endedWith (.ackMismatch, 0, 0) ∧ t.readBytes 0x600 6 = acks ∧ t.rxn = s.rxn ∧
      t.att.toNat = polls.length ∧ t.chip = rest := by
  have hrun := engineRun_sendPart_acks hu (.inr rfl) hfr hp hpoll hl hc
  rw [State.ackChecked, if_neg hne, State.fail_eq_endedAs (s := u.acked _ _ _ _) (by decide) hu.response] at hrun
  refine ⟨_, hrun, ?_, rfl, ?_, ?_, ?_, ?_⟩
  · rw [State.endedAs_trace rfl, State.acked_trace, hu.trace]
    simp only [List.append_assoc]
  · rw [State.endedAs_readBytes, State.acked_readBytes u _ _ _ hl]
  · exact (State.endedAs_rxn _ _).trans hu.rxn
  · rw [State.endedAs_att]
    exact toNat_attempts hpoll.1
  · exact State.endedAs_chip _ _

/-- EXCHANGE past its acknowledgement goes on as READ_RESPONSE, within the same bracket (R167). -/
theorem exchange_response {repolls data : List Byte} {out : Err × Byte × Byte}
    (hpoll : pollPasses (s.param.attemptsOf s.tmo).toNat polls)
    (hpart : ResponsePart s.param.repoll (s.param.attemptsOf s.tmo).toNat cmd repolls data out)
    (hc : s.chip = polls ++ ackFrame ++ repolls ++ data ++ rest) :
    ∃ t, engineRun
        (1 + (plen.toNat + 9) + (2 * polls.length - 1) + 6 + (2 * repolls.length - 1) + data.length) u = .next t ∧
      t.trace = s.trace ++ ([BusEvent.csAssert] ++ (encodeFrame cmd (s.readBytes 0x100 plen.toNat)).map BusEvent.write ++
        pollEvents polls ++ dataReads ackFrame ++ pollEvents repolls ++ dataReads data ++ [BusEvent.csDeassert]) ∧
      t.status = u.status.endedWith out ∧ t.readBytes 0x600 6 = ackFrame ∧ t.readBytes 0x400 data.length = data ∧
      (t.rxn = if data = [] then s.rxn else BitVec.ofNat 9 data.length) ∧
      t.att.toNat = (if repolls = [] then polls.length else repolls.length) ∧
      t.statb = (polls ++ repolls).getLastD 0 ∧ t.chip = rest := by
  have hack := engineRun_sendPart_acks (acks := ackFrame) (rest := repolls ++ data ++ rest) hu (.inr rfl) hfr hp hpoll rfl
    (by simpa only [List.append_assoc] using hc)
  rw [State.ackChecked, if_pos rfl, if_neg (by show u.opk ≠ _; rw [hu.opk]; decide)] at hack
  rw [← hu.limit, ← hu.param, ← hu.cmdl] at hpart
  obtain ⟨t, hrun, ht⟩ := engineRun_responsePart (s := u.acked _ polls ackFrame (repolls ++ data ++ rest)) hu.busy
    hu.response hu.limit_pos hpart rfl
  refine ⟨t.endedAs out, ?_, ?_, ht.ended_status out, ?_, ?_, ?_, ?_, ?_, ?_⟩
  · rw [Nat.add_assoc _ (2 * repolls.length - 1)]
    exact engineRun_trans hack hrun
  · rw [ht.ended_trace rfl, State.acked_trace, hu.trace]
    simp only [List.append_assoc]
  · rw [State.endedAs_readBytes, ht.ackr, State.acked_readBytes u _ _ _ rfl]
  · rw [State.endedAs_readBytes, ht.rxf]
  · rw [State.endedAs_rxn, ht.rxn]
    exact congrArg (ite _ · _) hu.rxn
  · rw [State.endedAs_att, ht.att]
    split
    · exact toNat_attempts hpoll.1
    · exact toNat_attempts hpart.polls_length
  · rw [State.endedAs_statb, ht.statb]
    obtain ⟨-, waits, r, rfl, -⟩ := hpoll
    show repolls.getLastD ((waits ++ [r]).getLastD u.statb) = _
    simp only [List.getLastD_eq_getLast?, List.getLast?_append, List.getLast?_singleton, Option.some_or, Option.or_some,
      Option.getD_some]
  · rw [State.endedAs_chip, ht.chip]

end

/-- Settles O48: READ_RESPONSE, and the three ways of EXCHANGE. -/
theorem readResponseRun : Obligations.ReadResponseRun := by
  refine ⟨fun s cmd plen _ _ _ _ => readResponseRun_readResponse cmd plen, fun s cmd plen hq hp => ?_⟩
  obtain ⟨u, hexec, hfr, hu⟩ := exec_sending_opStarted hq (List.mem_cons_of_mem _ List.mem_cons_self) hp
  exact ⟨u, hexec, fun _ _ => exchange_timeout hu hfr hp, fun _ _ _ => exchange_ackMismatch hu hfr hp,
    fun _ _ _ _ _ => exchange_response hu hfr hp⟩

end Sys2Proof.Machine
end

section
/-! PROOFS. The command layer (45_command_layer.md): the codes and the calls they begin, the steps of a call, the guard of the
transport's settings, and what a call returns. -/

namespace Sys2Proof.Machine

/-! ### The command codes -/

/-- Settles O2: each command code is the encoding of its own instruction, and so decodes to it. -/
theorem commandCodeBytes : Obligations.CommandCodeBytes :=
  ⟨decode_and_encode rfl, decode_and_encode rfl, decode_and_encode rfl, decode_and_encode rfl, decode_and_encode rfl,
    decode_and_encode rfl⟩

/-! ### Opening a call -/

theorem openCall_valid (k : CallKind) (c : Byte) (d : List Byte) (tmo : BitVec 16) {s : State}
    (h : s.client.call = none) : openCall k c d tmo true s = .next (s.calledWith k c d tmo) := by
  rw [openCall, h]
  rfl

theorem openCall_invalid (k : CallKind) (c : Byte) (d : List Byte) (tmo : BitVec 16) {s : State}
    (h : s.client.call = none) : openCall k c d tmo false s = .next (s.returnCall (k.result false []) none) := by
  rw [openCall, h]
  rfl

/-- With buffers of the fixed sizes a command code's call begins (45_command_layer.md R190). -/
theorem startCall_sizesValid {k : CallKind} (c : Byte) {s : State} (h : s.client.call = none)
    (hv : k.sizesValid s.client.args = true) : startCall k c s = .next (s.called k c) := by
  rw [startCall, hv]
  exact openCall_valid k c _ _ h

/-- With a buffer of another size it returns at once (45_command_layer.md R205). -/
theorem startCall_sizesInvalid {k : CallKind} (c : Byte) {s : State} (h : s.client.call = none)
    (hv : k.sizesValid s.client.args = false) : startCall k c s = .next (s.returnCall (k.result false []) none) := by
  rw [startCall, hv]
  exact openCall_invalid k c _ _ h

/-- The data exchange starts the operation its arguments name (45_command_layer.md R193). -/
theorem exec_cmdDataExchange {d : DataExchange} {s : State} (h : s.client.args.dataExchange = d) :
    exec .cmdDataExchange s = startCall d.kind 0x40#8 s := by
  rw [← h]
  rfl

/-! ### Payloads -/

theorem KeyType.command_eq (k : KeyType) : k.command = if k = .keyA then 0x60#8 else 0x61#8 := by cases k <;> rfl

theorem sentUid_short {uid : List Byte} (h : uid.length ≤ 4) : sentUid uid = uid := if_pos h

/-- authenticateBlock's payload carries slot, key command, block, key and what is sent of the UID, and the layout's others. -/
theorem payload_authenticateBlock_perm (a : Args) :
    (CallKind.payload a .authenticateBlock).Perm ([a.slot, if a.keyType = .keyA then 0x60#8 else 0x61#8, a.block] ++ a.key ++
      sentUid a.uid ++ (Config.authLayout (authNamed a)).others) := by
  rw [← KeyType.command_eq]
  exact laidOut_perm _ _

/-- Settles O54: a code without sized buffers always begins its call, a data exchange when the sizes hold; a layout keeps each
named byte once. -/
theorem commandCodesStart : Obligations.CommandCodesStart := by
  refine ⟨fun s hc => ⟨startCall_sizesValid _ hc rfl, startCall_sizesValid _ hc rfl, startCall_sizesValid _ hc rfl,
      startCall_sizesValid _ hc rfl, startCall_sizesValid _ hc rfl, fun hd hl => ?_, fun hd hl => ?_, fun hd hl => ?_,
      fun c data tmo => openCall_valid _ c data tmo hc⟩,
    fun _ => rfl, ⟨_, fun _ => rfl⟩, ⟨_, _, fun _ => rfl⟩, fun a => ⟨_, laidOut_perm _ _⟩, ?_,
    fun a => ⟨_, laidOut_perm _ _⟩, fun a => ⟨_, laidOut_perm _ _⟩⟩
  · exact (exec_cmdDataExchange hd).trans (startCall_sizesValid _ hc (decide_eq_true hl))
  · exact (exec_cmdDataExchange hd).trans (startCall_sizesValid _ hc (decide_eq_true hl))
  · exact (exec_cmdDataExchange hd).trans (startCall_sizesValid _ hc (decide_eq_true hl))
  · rintro a _ rfl
    have hperm := payload_authenticateBlock_perm a
    refine ⟨⟨_, by rwa [List.append_assoc _ (sentUid a.uid)] at hperm⟩, fun hshort => ?_⟩
    rw [sentUid_short hshort] at hperm
    exact ⟨_, hperm⟩

/-- Settles O55: a buffer of a wrong size, or an array without a command byte, returns the sentinel at once. -/
theorem fixedSizes : Obligations.FixedSizes := by
  refine fun s hc => ⟨?_, fun tmo => openCall_invalid _ _ _ tmo hc⟩
  rintro (⟨hd, hl⟩ | ⟨hd, hl⟩ | ⟨hd, hl⟩)
  · exact (exec_cmdDataExchange hd).trans (startCall_sizesInvalid _ hc (decide_eq_false hl))
  · exact (exec_cmdDataExchange hd).trans (startCall_sizesInvalid _ hc (decide_eq_false hl))
  · exact (exec_cmdDataExchange hd).trans (startCall_sizesInvalid _ hc (decide_eq_false hl))

/-! ### What a call returns -/

theorem CallKind.result_failure (k : CallKind) (got : List Byte) : k.result false got = k.sentinel := by cases k <;> rfl

theorem CallKind.blockOut_failure (k : CallKind) (got : List Byte) : k.blockOut false got = none := by
  simp [CallKind.blockOut]

/-- A non-zero status byte gives 0 (45_command_layer.md R196). -/
theorem exchangeResult_failure {got : List Byte} (h : payloadByte got Config.statusPos ≠ 0) : exchangeResult got = 0 :=
  if_neg h

/-- Status 0 gives a value that is not 0 (45_command_layer.md R202). -/
theorem exchangeResult_success {got : List Byte} (h : payloadByte got Config.statusPos = 0) : exchangeResult got ≠ 0 := by
  have hlt := (Config.successValue got).isLt
  rw [exchangeResult, if_pos h, ne_eq, BitVec.toNat_eq, BitVec.toNat_ofNat, Nat.mod_eq_of_lt (by omega)]
  exact Nat.succ_ne_zero _

/-- The three data exchanges return what the status byte says. -/
theorem CallKind.result_dataExchange {k : CallKind} (got : List Byte)
    (hk : k ∈ [CallKind.authenticateBlock, .readMemoryBlock, .writeMemoryBlock]) :
    k.result true got = .word (exchangeResult got) := by
  simp only [List.mem_cons, List.not_mem_nil, or_false] at hk
  rcases hk with rfl | rfl | rfl <;> rfl

theorem CallKind.blockOut_exchangeFailure (k : CallKind) {got : List Byte} (h : exchangeResult got = 0) :
    k.blockOut true got = none := if_neg fun ⟨_, _, hne⟩ => hne h

theorem CallKind.blockOut_readMemoryBlock {got : List Byte} (h : exchangeResult got ≠ 0) :
    CallKind.blockOut true got .readMemoryBlock = some ((List.finRange 16).map (Config.memoryBlock got)) :=
  if_pos ⟨rfl, rfl, h⟩

/-- A target count of 0 gives CardID 0 (45_command_layer.md R200). -/
theorem passiveResult_noTarget {got : List Byte} (h : payloadByte got Config.targetCountPos = 0) : passiveResult got = 0 :=
  if_pos h

/-- Settles O60: a data exchange by its status byte, a target count of 0, the booleans, and the sentinels. -/
theorem statusBytes : Obligations.StatusBytes := by
  refine fun got => ⟨fun k hk => ⟨fun h => ?_, fun h => ?_⟩, fun h => ?_, fun h => ?_, fun ok => ⟨rfl, rfl, rfl⟩,
    fun k => ⟨k.result_failure got, k.blockOut_failure got⟩⟩
  · have hzero := exchangeResult_failure h
    exact ⟨by rw [CallKind.result_dataExchange got hk, hzero], k.blockOut_exchangeFailure hzero⟩
  · exact ⟨_, exchangeResult_success h, CallKind.result_dataExchange got hk⟩
  · exact ⟨_, by simp, CallKind.blockOut_readMemoryBlock (exchangeResult_success h)⟩
  · exact congrArg Result.word (passiveResult_noTarget h)

/-! ### The CardID -/

/-- The fold of `bigEndian` holds as many bytes as it has read. -/
theorem bigEndian_fold_lt (u : List Byte) (n : Nat) :
    u.foldl (fun n b => n * 256 + b.toNat) n < (n + 1) * 256 ^ u.length := by
  induction u generalizing n with
  | nil => simp
  | cons b u ih =>
    have hb := b.isLt
    calc (b :: u).foldl (fun n b => n * 256 + b.toNat) n
        < (n * 256 + b.toNat + 1) * 256 ^ u.length := ih _
      _ ≤ ((n + 1) * 256) * 256 ^ u.length := Nat.mul_le_mul_right _ (by omega)
      _ = (n + 1) * 256 ^ (b :: u).length := by rw [List.length_cons, Nat.pow_succ']; ring

/-- Up to four bytes the CardID's 32 bits hold the whole sum (45_command_layer.md R201). -/
theorem cardID_toNat {u : List Byte} (h0 : u.length ≠ 0) (h4 : u.length ≤ 4) :
    (cardID u).toNat = u.foldl (fun n b => n * 256 + b.toNat) 0 := by
  have hfold := bigEndian_fold_lt u 0
  have hpow : 256 ^ u.length ≤ 256 ^ 4 := Nat.pow_le_pow_right (by decide) h4
  rw [cardID, if_neg h0, if_pos h4, bigEndian, BitVec.toNat_ofNat, Nat.mod_eq_of_lt]
  omega

/-- Settles O59: the fold of each of the four lengths, multiplied out. -/
theorem cardIdBigEndian : Obligations.CardIdBigEndian := by
  refine ⟨fun a => ?_, fun a b => ?_, fun a b c => ?_, fun a b c d => ?_⟩ <;>
    rw [cardID_toNat (by simp) (by simp)] <;> simp only [List.foldl_cons, List.foldl_nil] <;> omega

/-! ### The steps of a call -/

/-- A byte survives the host's 64-bit data (log 31). -/
theorem setWidth_byte (b : Byte) : (b.setWidth 64 : HostData).setWidth 8 = b := by simp

/-- The host reads RXF byte by byte (20_memory.md R71). -/
theorem windowRead_rxf {i : Nat} (s : State) (h : i ≤ 261) :
    windowRead .w8 (rxfBase + i) s = (s.readByte (rxfBase + i)).setWidth 64 := by
  unfold windowRead
  rw [regionOf_rxf h]

theorem afterSend_waiting (c : Call) {st : Status} (hd : st.done = false) : afterSend c st.word = .waitSend := by
  simp [afterSend, hd]

theorem afterSend_ok (c : Call) {st : Status} (hd : st.done = true) (hok : st.ok = true) :
    afterSend c st.word = if c.kind.expectsData then .writeRead else .restoreBus true := by
  simp [afterSend, hd, hok]

theorem afterSend_failed (c : Call) {st : Status} (hd : st.done = true) (hok : st.ok = false) :
    afterSend c st.word = .restoreBus false := by
  simp [afterSend, hd, hok]

theorem afterRead_waiting {st : Status} (hd : st.done = false) : afterRead st.word = .waitRead := by
  simp [afterRead, hd]

theorem afterRead_ok {st : Status} (hd : st.done = true) (hok : st.ok = true) :
    afterRead st.word = .fetch 0 st.respLen.toNat := by
  simp [afterRead, hd, hok]

theorem afterRead_failed {st : Status} (hd : st.done = true) (hok : st.ok = false) :
    afterRead st.word = .restoreBus false := by
  simp [afterRead, hd, hok]

/-- Only RFConfiguration and the plain sendCommandCheckAck read no response (45_command_layer.md R199, 30_encoding.md R95). -/
theorem CallKind.expectsData_eq_false_iff (k : CallKind) :
    k.expectsData = false ↔ k = .rfConfiguration ∨ k = .sendCommandCheckAck := by
  cases k <;> decide

section
variable {c : Call} (s : State)

theorem callStep_saveBus (h : c.phase = .saveBus) (hl : c.payload.length ≤ 255) :
    callStep c s = .next (s.setCall (some { c with saved := s.transport, phase := .forceBus })) := by
  rw [callStep, h]
  exact congrArg _ (if_pos hl)

/-- A payload that PLEN cannot announce (log 25). -/
theorem callStep_saveBus_tooLong (h : c.phase = .saveBus) (hl : 255 < c.payload.length) :
    callStep c s = .next (s.returnCall c.kind.sentinel none) := by
  rw [callStep, h, ← c.kind.result_failure []]
  exact congrArg _ (if_neg (Nat.not_le.mpr hl))

theorem callStep_forceBus (h : c.phase = .forceBus) :
    callStep c s = .next { s.toPhase c .writeTimeout with transport := Config.requiredBus } := by
  rw [callStep, h]

theorem callStep_writeTimeout (h : c.phase = .writeTimeout) :
    callStep c s = .next ((s.guardBusy (fun s => { s with tmo := c.timeoutMs })).toPhase c (.writePayload 0)) := by
  rw [callStep, h]
  show andThen (windowWrite .w32 (Reg.offset .tmo) (c.timeoutMs.setWidth 64) s) _ = _
  rw [windowWrite_tmo, BitVec.setWidth_setWidth_of_le _ (by decide), BitVec.setWidth_eq]
  rfl

theorem callStep_writePayload {i : Nat} {b : Byte} (h : c.phase = .writePayload i) (hb : c.payload[i]? = some b) :
    callStep c s =
      andThen (windowWrite .w8 (pbufBase + i) (b.setWidth 64) s) (fun t => t.toPhase c (.writePayload (i + 1))) := by
  simp only [callStep, h, hb]

/-- A payload byte at a PBUF offset (10_state.md R38). -/
theorem callStep_writePayload_pbuf {i : Nat} {b : Byte} (h : c.phase = .writePayload i) (hb : c.payload[i]? = some b)
    (hi : i ≤ 252) :
    callStep c s = .next ((s.guardBusy (fun s => s.writeByte (0x100 + i) b)).toPhase c (.writePayload (i + 1))) := by
  rw [callStep_writePayload s h hb, windowWrite_byte _ s (.inl (regionOf_pbuf hi)),
    setWidth_byte]
  rfl

/-- The two payload bytes past PBUF meet reserved offsets (10_state.md R42). -/
theorem callStep_writePayload_reserved {i : Nat} {b : Byte} (h : c.phase = .writePayload i) (hb : c.payload[i]? = some b)
    (h253 : 253 ≤ i) (h254 : i ≤ 254) : callStep c s = .next (s.toPhase c (.writePayload (i + 1))) := by
  rw [callStep_writePayload s h hb,
    windowWrite_reserved _ s (regionOf_reserved (.inr (.inl (by unfold pbufBase; omega))))]
  rfl

theorem callStep_writePayload_done {i : Nat} (h : c.phase = .writePayload i) (hb : c.payload[i]? = none) :
    callStep c s = .next (s.toPhase c .writeSend) := by
  simp only [callStep, h, hb]

theorem callStep_writeSend (h : c.phase = .writeSend) :
    callStep c s =
      andThen (exec (.fceSendAck c.cmd (BitVec.ofNat 8 c.payload.length)) s) (fun t => t.toPhase c .waitSend) := by
  simp only [callStep, h]
  rw [windowWrite_opWord 4#4 false c.cmd _ _ s rfl]

theorem callStep_waitSend (h : c.phase = .waitSend) :
    callStep c s = .next (s.toPhase c (afterSend c s.status.word)) := by
  rw [callStep, h, ← read_status]

theorem callStep_writeRead (h : c.phase = .writeRead) :
    callStep c s = andThen (exec (.fceReadResp c.cmd 0) s) (fun t => t.toPhase c .waitRead) := by
  simp only [callStep, h]
  rw [windowWrite_opWord 5#4 false c.cmd _ _ s rfl]

theorem callStep_waitRead (h : c.phase = .waitRead) :
    callStep c s = .next (s.toPhase c (afterRead s.status.word)) := by
  rw [callStep, h, ← read_status]

theorem callStep_fetch {i n : Nat} (h : c.phase = .fetch i n) (hi : i < n) :
    callStep c s = .next (s.setCall (some { c with
      got := c.got ++ [(windowRead .w8 (rxfBase + 7 + i) s).setWidth 8], phase := .fetch (i + 1) n })) := by
  rw [callStep, h]
  exact congrArg _ (if_pos hi)

/-- A response byte at an RXF offset (10_state.md R40). -/
theorem callStep_fetch_rxf {i n : Nat} (h : c.phase = .fetch i n) (hi : i < n) (hn : n ≤ 255) :
    callStep c s = .next
      (s.setCall (some { c with got := c.got ++ [s.readByte (0x407 + i)], phase := .fetch (i + 1) n })) := by
  rw [callStep_fetch s h hi, Nat.add_assoc, windowRead_rxf s (by omega), setWidth_byte, ← Nat.add_assoc]
  rfl

theorem callStep_fetch_done {i n : Nat} (h : c.phase = .fetch i n) (hi : n ≤ i) :
    callStep c s = .next (s.toPhase c (.restoreBus true)) := by
  rw [callStep, h]
  exact congrArg _ (if_neg (Nat.not_lt.mpr hi))

theorem callStep_restoreBus {ok : Bool} (h : c.phase = .restoreBus ok) :
    callStep c s = .next { s.returnCall (c.kind.result ok c.got) (c.kind.blockOut ok c.got) with transport := c.saved } := by
  rw [callStep, h]

end

/-- Settles O56: the equation of each phase, its write rejected or taken by the busy rule, its wait by the STATUS it reads. -/
theorem callSteps : Obligations.CallSteps := by
  refine ⟨CallKind.expectsData_eq_false_iff, fun s c => ⟨callStep_saveBus s, callStep_forceBus s, fun h hb => ?_,
    fun i b h hpay hi hb => ?_, fun i b => callStep_writePayload_reserved s, fun ok => callStep_restoreBus s,
    callStep_saveBus_tooLong s, fun h hb => ?_, fun i b h hpay hi hb => ?_, fun i => callStep_writePayload_done s,
    callStep_writeSend s, fun h hd => ?_, fun h hd hok => ?_, callStep_writeRead s, fun h hd => ?_, fun h hd hok => ?_,
    fun i n => callStep_fetch_rxf s, fun i n => callStep_fetch_done s⟩⟩
  · rw [callStep_writeTimeout s h, s.guardBusy_busy hb]
    rfl
  · rw [callStep_writePayload_pbuf s h hpay hi, s.guardBusy_busy hb]
    rfl
  · rw [callStep_writeTimeout s h, s.guardBusy_free hb]
  · rw [callStep_writePayload_pbuf s h hpay hi, s.guardBusy_free hb]
  · rw [callStep_waitSend s h, afterSend_waiting c hd]
  · rw [callStep_waitSend s h, afterSend_ok c hd hok]
  · rw [callStep_waitRead s h, afterRead_waiting hd]
  · rw [callStep_waitRead s h, afterRead_ok hd hok]

/-- Settles O58: a wait that reads DONE with OK 0 ends the call, and that end returns the sentinel. -/
theorem sentinels : Obligations.Sentinels := by
  refine ⟨fun s c h hd hok => ?_, fun s c h => ⟨_, callStep_restoreBus s h, rfl, ?_, c.kind.blockOut_failure c.got⟩⟩
  · rcases h with h | h
    · rw [callStep_waitSend s h, afterSend_failed c hd hok]
    · rw [callStep_waitRead s h, afterRead_failed hd hok]
  · exact congrArg some (c.kind.result_failure c.got)

/-! ### The guard of the transport's settings -/

/-- The two states have the same host: its call, its backup and the transport's settings among the rest. -/
abbrev sameHost (s t : State) : Prop := t.client = s.client ∧ t.transport = s.transport

theorem finish_sameHost (s : State) (ok : Bool) (e : Err) : sameHost s (s.finish ok e) := by simp [sameHost]

/-- What an accepted operation word performs is the block's alone. -/
theorem Performed.sameHost {s t : State} (h : Performed s t) : sameHost s t := by
  cases h with
  | failed e he => exact finish_sameHost s false e
  | encoded c p hl => exact finish_sameHost (s.encodeInto c p) true .noError
  | decoded c p => exact finish_sameHost (s.setResponse c p) true .noError
  | matched => exact finish_sameHost s true .noError
  | sending k c p hk hl => exact ⟨rfl, rfl⟩
  | reading c => exact ⟨rfl, rfl⟩

/-- An operation word, rejected or performed, is the block's alone. -/
theorem exec_operation_sameHost {i : Instr} {s t : State} (hi : isOperation i = true) (h : exec i s = .next t) :
    sameHost s t := by
  obtain ⟨-, rfl⟩ | ⟨-, w, hp⟩ := exec_operation_performed hi h
  · exact ⟨rfl, rfl⟩
  · exact hp.sameHost

theorem guardBusy_sameHost {s : State} {f : State → State} (hf : sameHost s (f s)) : sameHost s (s.guardBusy f) := by
  rcases guardBusy_cases s f with ⟨-, h⟩ | ⟨-, h⟩ <;> rw [h]
  · exact ⟨rfl, rfl⟩
  · exact hf

/-- The 8-bit writes that store are PBUF's and RXF's (20_memory.md R71). -/
theorem Width.stores_byte {r : Region} (h : Width.w8.stores r = true) : r = .pbuf ∨ r = .rxf := by
  cases r with
  | pbuf => exact .inl rfl
  | rxf => exact .inr rfl
  | _ => cases h

/-- A byte the host writes, at any offset, is the block's alone. -/
theorem windowWrite_byte_sameHost {off : Nat} {v : HostData} {s t : State} (h : windowWrite .w8 off v s = .next t) :
    sameHost s t := by
  cases hstores : Width.w8.stores (regionOf off)
  · cases (windowWrite_ignored v s hstores).symm.trans h
    exact ⟨rfl, rfl⟩
  · cases (windowWrite_byte v s (Width.stores_byte hstores)).symm.trans h
    exact guardBusy_sameHost ⟨rfl, rfl⟩

/-- The phases between the forcing of the transport's settings and their restoring (45_command_layer.md R206). -/
def Phase.insideGuard : Phase → Bool
  | .saveBus => false
  | .forceBus => false
  | .restoreBus _ => false
  | _ => true

/-- What a step of a call does on the host's side, by its phase: it captures the settings, or rejects its payload (log 25); it
forces the required ones; it restores the captured ones and returns; in every other phase it goes on with them, and what it
writes of the block leaves the host's side. -/
inductive CallStepped (c : Call) (s : State) : Phase → State → Prop where
  | captured : CallStepped c s .saveBus (s.setCall (some { c with saved := s.transport, phase := .forceBus }))
  | tooLong (hl : 255 < c.payload.length) : CallStepped c s .saveBus (s.returnCall c.kind.sentinel none)
  | forced : CallStepped c s .forceBus { s.toPhase c .writeTimeout with transport := Config.requiredBus }
  | carried {p : Phase} (hp : p.insideGuard = true) (u : State) (hu : sameHost s u) (d : Call) (hd : d.saved = c.saved) :
      CallStepped c s p (u.setCall (some d))
  | returned (ok : Bool) (r : Result) (b : Option (List Byte)) :
      CallStepped c s (.restoreBus ok) { s.returnCall r b with transport := c.saved }

/-- A step that writes the block and goes on. -/
theorem CallStepped.of_andThen {c : Call} {s t : State} {o : Host.Outcome State Fault Refusal} {p q : Phase}
    (hp : p.insideGuard = true) (ho : ∀ u, o = .next u → sameHost s u)
    (h : andThen o (fun u => u.toPhase c q) = .next t) : CallStepped c s p t := by
  obtain ⟨u, hu, rfl⟩ := andThen_next h
  exact .carried hp u (ho u hu) { c with phase := q } rfl

/-- Everything a step of a call can do on the host's side. -/
theorem callStep_stepped {c : Call} {s t : State} (h : callStep c s = .next t) : CallStepped c s c.phase t := by
  have hsame : sameHost s s := ⟨rfl, rfl⟩
  cases hp : c.phase with
  | saveBus =>
    rcases Nat.lt_or_ge 255 c.payload.length with hl | hl
    · cases (callStep_saveBus_tooLong s hp hl).symm.trans h
      exact .tooLong hl
    · cases (callStep_saveBus s hp hl).symm.trans h
      exact .captured
  | forceBus =>
    cases (callStep_forceBus s hp).symm.trans h
    exact .forced
  | writeTimeout =>
    cases (callStep_writeTimeout s hp).symm.trans h
    exact .carried rfl _ (guardBusy_sameHost ⟨rfl, rfl⟩) _ rfl
  | writePayload i =>
    cases hb : c.payload[i]? with
    | some b =>
      exact .of_andThen rfl (fun _ => windowWrite_byte_sameHost) ((callStep_writePayload s hp hb).symm.trans h)
    | none =>
      cases (callStep_writePayload_done s hp hb).symm.trans h
      exact .carried rfl s hsame _ rfl
  | writeSend =>
    exact .of_andThen rfl (fun _ => exec_operation_sameHost rfl) ((callStep_writeSend s hp).symm.trans h)
  | waitSend =>
    cases (callStep_waitSend s hp).symm.trans h
    exact .carried rfl s hsame _ rfl
  | writeRead =>
    exact .of_andThen rfl (fun _ => exec_operation_sameHost rfl) ((callStep_writeRead s hp).symm.trans h)
  | waitRead =>
    cases (callStep_waitRead s hp).symm.trans h
    exact .carried rfl s hsame _ rfl
  | fetch i n =>
    rcases Nat.lt_or_ge i n with hi | hi
    · cases (callStep_fetch s hp hi).symm.trans h
      exact .carried rfl s hsame _ rfl
    · cases (callStep_fetch_done s hp hi).symm.trans h
      exact .carried rfl s hsame _ rfl
  | restoreBus ok =>
    cases (callStep_restoreBus s hp).symm.trans h
    exact .returned ok _ _

/-- Settles O57: by what a step of a call does on the host's side; the driver's own backup and restore by their meanings. -/
theorem guardRestores : Obligations.GuardRestores := by
  refine ⟨fun s t c h => ?_, fun _ => rfl, fun s b hb => by rw [hostOp, hb]⟩
  have hstep := callStep_stepped h
  generalize c.phase = p at hstep ⊢
  cases hstep with
  | captured =>
    refine ⟨fun _ => ⟨rfl, ?_⟩, nofun, fun hne => absurd rfl hne, nofun, fun _ _ => rfl, nofun⟩
    rintro _ ⟨⟩
    exact ⟨rfl, rfl⟩
  | tooLong hl =>
    exact ⟨fun _ => ⟨rfl, nofun⟩, nofun, fun hne => absurd rfl hne, nofun, fun _ _ => rfl,
      fun _ _ => .inl ⟨rfl, hl⟩⟩
  | forced => exact ⟨nofun, fun _ => rfl, by rintro - _ ⟨⟩; rfl, nofun, fun hne => absurd rfl hne, nofun⟩
  | carried hp u hu d hd =>
    obtain ⟨-, htransport⟩ := hu
    refine ⟨?_, ?_, by rintro - _ ⟨⟩; exact hd, ?_, fun _ _ => htransport, nofun⟩
    · rintro rfl
      cases hp
    · rintro rfl
      cases hp
    · rintro _ rfl
      cases hp
  | returned ok r b =>
    exact ⟨nofun, nofun, fun _ => nofun, fun _ _ => ⟨rfl, rfl⟩, fun _ hne => absurd rfl (hne ok),
      fun _ _ => .inr ⟨ok, rfl⟩⟩

end Sys2Proof.Machine
end

section
/-! PROOFS. The exceptions (60_exceptions.md): `Finish` as the only end of an operation, what INVALID_ARG leaves, and that
the host cannot disturb a running operation. -/

namespace Sys2Proof.Machine

/-! ### `Finish` -/

/-- The release of chip-select as one state, whatever the line was (60_exceptions.md R226). -/
theorem State.csRelease_eq (s : State) :
    s.csRelease =
      { s with
        trace := if s.status.cs then s.trace ++ [.csDeassert] else s.trace
        status := { s.status with cs := false } } := by
  rw [← s.csRelease_trace, ← s.csRelease_status]
  unfold State.csRelease
  split <;> rfl

/-- A move of the engine that clears BUSY is `Finish` after the move's one transfer. -/
theorem EngineMove.ends_by_finish {s t : State} (h : EngineMove s t) (hb : s.status.busy = true)
    (ht : t.status.busy = false) :
    ∃ (u : State) (e : BusEvent) (ok : Bool) (r : Err),
      t = u.finish ok r ∧ u.trace = s.trace ++ [e] ∧ isTransfer e = true := by
  cases h with
  | timeout => exact ⟨s.polled, _, false, .timeout, rfl, rfl, rfl⟩
  | ackBad => exact ⟨s.ackReceived, _, false, .ackMismatch, rfl, rfl, rfl⟩
  | ackGood => exact ⟨s.ackReceived, _, true, .noError, rfl, rfl, rfl⟩
  | headerBad => exact ⟨s.receiveByte, _, false, .framing, rfl, rfl, rfl⟩
  | bodyBad _ _ _ _ e => exact ⟨s.receiveByte, _, false, e, rfl, rfl, rfl⟩
  | bodyGood _ _ _ _ cmd plen => exact ⟨s.receiveByte.setResponse cmd plen, _, true, .noError, rfl, rfl, rfl⟩
  | _ => cases hb.symm.trans ht

/-- An accepted operation that leaves BUSY 0 is `Finish` with no event before it; the others start the engine. -/
theorem Performed.ends_by_finish {s t : State} (h : Performed s t) (ht : t.status.busy = false) :
    ∃ (u : State) (ok : Bool) (r : Err), t = u.finish ok r ∧ u.trace = s.trace := by
  cases h with
  | failed e => exact ⟨s, false, e, rfl, rfl⟩
  | encoded cmd plen => exact ⟨s.encodeInto cmd plen, true, .noError, rfl, rfl⟩
  | decoded cmd plen => exact ⟨s.setResponse cmd plen, true, .noError, rfl, rfl⟩
  | matched => exact ⟨s, true, .noError, rfl, rfl⟩
  | sending | reading => cases ht

/-- Settles O38: `Finish` from the release of chip-select, then each way an operation ends as a `Finish`. -/
theorem finishIsTheOnlyEnd : Obligations.FinishIsTheOnlyEnd := by
  refine ⟨fun s ok e => ?_, fun s t h => (engineStep_move h).ends_by_finish, fun i s t hi h hb ht => ?_,
    fun v s t h hb => ?_⟩
  · rw [State.finish, State.csRelease_eq]
  · obtain ⟨hbusy, -⟩ | ⟨-, w, hp⟩ := exec_operation_performed hi h
    · cases hb.symm.trans hbusy
    · exact hp.ends_by_finish ht
  · obtain ⟨hbusy, -⟩ | ⟨-, rfl⟩ := acceptOp_cases h
    · cases hb.symm.trans hbusy
    · exact ⟨s.accept v, rfl, rfl⟩

/-! ### INVALID_ARG -/

/-- An accepted operation that leaves an error code has failed with it: no success and no start of the engine leaves one. -/
theorem Performed.eq_fail_of_err {s t : State} (h : Performed s t) (hs : s.status.err = .noError)
    (ht : t.status.err ≠ .noError) : t = s.fail t.status.err := by
  cases h with
  | failed e => rw [State.fail, State.finish_status]; rfl
  | encoded | decoded | matched => exact absurd (congrArg Status.err (State.finish_status _ _ _)) ht
  | sending | reading => exact absurd hs ht

/-- Settles O19: the operation failed at acceptance, which on a quiet block writes OP, ATT, OPK and STATUS alone. -/
theorem invalidArgTouchesNothing : Obligations.InvalidArgTouchesNothing := by
  intro i s t hi hq h herr
  obtain ⟨hbusy, -⟩ | ⟨-, w, hp⟩ := exec_operation_performed hi h
  · cases hq.1.symm.trans hbusy
  · have hfail := hp.eq_fail_of_err rfl (by simp [herr])
    rw [herr, State.accept_fail hq w (by decide)] at hfail
    subst hfail
    exact ⟨rfl, rfl, rfl, rfl, rfl, rfl⟩

/-! ### The host while an operation runs -/

/-- While BUSY a host write is rejected, or leaves the block (20_memory.md R75). -/
theorem HostWrite.busy_cases {s t : State} (h : HostWrite s t) (hb : s.status.busy = true) :
    hostSide s t ∨ t = s.rejected := by
  cases h with
  | ignored => exact .inl rfl
  | rejected => exact .inr rfl
  | operation i t h =>
    obtain hs | ⟨-, hr⟩ | ⟨hfree, -⟩ := exec_cases h
    · exact .inl hs
    · exact .inr hr
    · cases hfree.symm.trans hb
  | tmo hfree | rxn hfree | byte hfree | illegal hfree => cases hfree.symm.trans hb

/-- The block is as it was but for REJ, which can only have been set. -/
abbrev sameBlockButRej (s t : State) : Prop :=
  sameBlock { s with status := { s.status with rej := t.status.rej } } t ∧ (s.status.rej = true → t.status.rej = true)

theorem HostWrite.sameBlockButRej {s t : State} (h : HostWrite s t) (hb : s.status.busy = true) : sameBlockButRej s t := by
  obtain hs | rfl := h.busy_cases hb
  · rw [hs]
    exact ⟨⟨rfl, rfl, rfl, rfl, rfl, rfl, rfl, rfl, rfl, rfl, rfl, rfl, rfl, rfl, rfl⟩, id⟩
  · exact ⟨⟨rfl, rfl, rfl, rfl, rfl, rfl, rfl, rfl, rfl, rfl, rfl, rfl, rfl, rfl, rfl⟩, fun _ => rfl⟩

/-- A turn of the host is a host write, for the block. -/
theorem hostTurn_sameBlockButRej {s t : State} (hb : s.status.busy = true) (h : hostTurn s = .next t) :
    sameBlockButRej s t := by
  obtain ⟨r, u, hr, hw, ht⟩ := hostTurn_cases h
  rw [ht]
  rw [hr] at hw
  exact hw.sameBlockButRej hb

/-- Settles O49: the turn is the host's, and taking it changes nothing of the block. -/
theorem hostCannotDisturb : Obligations.HostCannotDisturb := by
  intro s t hb hn h
  exact hostTurn_sameBlockButRej (s := s.takeTurn) hb ((step_host hn).symm.trans h)

end Sys2Proof.Machine
end

section
/-! PROOFS. Reset: the invariant of the reset state, what a reset turn leaves, and what a buffer byte reads as after it and
after a write. -/

namespace Sys2Proof.Machine

/-! ### The reset state -/

/-- Reset is an idle block whose buffers list nothing and whose trace is empty (70_reset_and_hazards.md R252). -/
theorem Inv.resetOf (p : Param) : Inv (State.resetOf p) where
  memory := ⟨.nil, nofun⟩
  busy := rfl
  opk := rfl
  done := rfl
  ok := rfl
  err := iff_of_false (fun h => h rfl) nofun
  cs := rfl
  response _ := ⟨rfl, rfl⟩
  attempts := Nat.le_refl _
  bound := nofun
  line := rfl
  stage := trivial

/-- Settles O43, for every instance and so for the default one. -/
theorem invAtReset : Obligations.InvAtReset := ⟨Inv.resetOf, Inv.resetOf Param.default⟩

/-! ### The reset turn -/

/-- After reset STATUS reads 0 (70_reset_and_hazards.md R252). -/
theorem Status.reset_word : Status.reset.word = 0#32 := by decide

/-- Settles O51: the reset values, the release of chip-select, and the engine's quiescence with BUSY 0. -/
theorem resetEffect : Obligations.ResetEffect := by
  intro s hn
  have htrace : s.takeTurn.resetBlock.trace = if s.status.cs then s.trace ++ [.csDeassert] else s.trace :=
    State.csRelease_trace s.takeTurn
  have hword : (s.takeTurn.resetBlock.regWord .status).toNat = 0 := congrArg BitVec.toNat Status.reset_word
  have hquiet : engineStep s.takeTurn.resetBlock = .next s.takeTurn.resetBlock := engineStep_quiet rfl
  exact ⟨s.takeTurn.resetBlock, step_reset hn, htrace, rfl, hword, rfl, rfl, rfl, rfl, rfl, rfl, rfl, rfl, rfl, rfl, rfl, rfl,
    rfl, rfl, hquiet⟩

/-! ### Buffer bytes -/

/-- The host reads every buffer byte by byte (20_memory.md R71). -/
theorem windowRead_buffer {off : Nat} (s : State) (h : bufferOffset off) :
    windowRead .w8 off s = (s.readByte off).setWidth 64 := by
  unfold windowRead
  rcases regionOf_buffer h with hr | hr | hr | hr <;> rw [hr]

/-- An unlisted byte is a free draw of the tick (70_reset_and_hazards.md R253, log 4). -/
theorem State.readByte_of_unlisted {s : State} {off : Nat} (h : Memory.get off s.mem = none) :
    s.readByte off = Config.freeByte s.tick off := by
  rw [State.readByte, h]

theorem State.writeByte_readByte_same (s : State) (off : Nat) (b : Byte) : (s.writeByte off b).readByte off = b :=
  State.readByte_of_get ((Memory.get_set off off b s.mem).trans (if_pos rfl))

theorem State.writeByte_readByte_other (s : State) {off a : Nat} (b : Byte) (h : a ≠ off) :
    (s.writeByte off b).readByte a = s.readByte a :=
  State.readByte_congr ((Memory.get_set off a b s.mem).trans (if_neg h)) rfl

/-- Settles O52: after reset no byte is listed; a write lists its byte, which another byte's write keeps. -/
theorem unwrittenBytes : Obligations.UnwrittenBytes := by
  refine ⟨fun s hn => ⟨s.takeTurn.resetBlock, step_reset hn, fun off hoff => ?_⟩, fun s off o2 b b2 hoff hne => ⟨?_, ?_⟩⟩
  · rw [windowRead_buffer _ hoff, State.readByte_of_unlisted rfl]
  · rw [windowRead_buffer _ hoff, State.writeByte_readByte_other _ b2 hne.symm, State.writeByte_readByte_same]
  · exact State.writeByte_readByte_same _ o2 b2

end Sys2Proof.Machine
end
